-- ==== Sys2Proof/Word.lean ====
section
/-! DEFINITION. Word.lean: the value types of CFD (spec/00_scope.md R14 to R16, R19).
A byte is an unsigned 8-bit value, a byte sequence a list of them (element 0 first), a raw value 16 bits and a
binary64 number its 64-bit interchange pattern (spec/30_encoding.md R89). Nothing in CFD is signed. -/
namespace Sys2Proof

/-- A byte, 0 to 255 (R14); bit 0 is the least significant (R15). -/
abbrev Byte := BitVec 8

/-- A finite byte sequence, `s[0]` first (R16). -/
abbrev Bytes := List Byte

/-- An unscaled (raw) value: 16 bits unsigned (R11, R125). -/
abbrev Raw := BitVec 16

/-- The 64-bit interchange pattern of an IEEE 754 binary64 value (R89). -/
abbrev F64 := BitVec 64

end Sys2Proof
end

