-- ==== Sys2Proof/Machine/Bytes.lean ====
section
/-! DEFINITION. Bytes.lean: the byte order of every multi-byte packet field: big-endian (spec/00_scope.md R16,
spec/20_memory.md R67). -/
namespace Sys2Proof.Machine

/-- `BE16(v)`: two bytes, most significant first (R16); `v` is read modulo 2^16. -/
def be16 (v : Nat) : Bytes := [BitVec.ofNat 8 (v / 256), BitVec.ofNat 8 v]

/-- The natural of a BE16 field: `(hi << 8) | lo` (R82). -/
def readBe16 (hi lo : Byte) : Nat := hi.toNat * 256 + lo.toNat

/-- `BE64(v)`: the 64-bit pattern, most significant byte first (R16, R89). -/
def be64 (v : F64) : Bytes :=
  [v.extractLsb' 56 8, v.extractLsb' 48 8, v.extractLsb' 40 8, v.extractLsb' 32 8,
   v.extractLsb' 24 8, v.extractLsb' 16 8, v.extractLsb' 8 8, v.extractLsb' 0 8]

/-- The pattern of eight bytes, most significant first, and the bytes after them. -/
def readBe64 : Bytes → Option (F64 × Bytes)
  | a :: b :: c :: d :: e :: f :: g :: h :: rest =>
    some (BitVec.ofNat 64 (((((((a.toNat * 256 + b.toNat) * 256 + c.toNat) * 256 + d.toNat) * 256 + e.toNat) * 256
      + f.toNat) * 256 + g.toNat) * 256 + h.toNat), rest)
  | _ => none

end Sys2Proof.Machine
end

