-- ==== Sys2Proof/Config.lean ====
section
/-! DEFINITION. Config.lean: what is fixed for one CFD and never written by an operation: the wire constants (R12), the
implementation parameters of spec/00_scope.md R11 with the catalog CAT (spec/41_catalog.md R100), and the one value the
spec leaves without a result. The parameters are DATA (the machine's State carries a `Config`), so a statement about every
state is a statement about every configuration, as R11 and spec/92_eei_decisions.md ask of an OPEN parameter. -/
namespace Sys2Proof

/-! ## Wire constants (R12, R91, R92) -/

/-- MARKER 0x5A (R12). -/
def Config.marker : Byte := 0x5A#8
/-- STREAM_START 0xF0 (R12). -/
def Config.streamStart : Byte := 0xF0#8
/-- INIT 0xFF 0xFF 0xEF, first byte first (R12). -/
def Config.initMarker : Bytes := [0xFF#8, 0xFF#8, 0xEF#8]
/-- INIT_RESPONSE 0x10 (R12, R92). -/
def Config.initResponse : Byte := 0x10#8
/-- STREAM_STOP 0x30 (R12, R92). -/
def Config.streamStop : Byte := 0x30#8
/-- STOP_ACK 0xCF (R12, R92). -/
def Config.stopAck : Byte := 0xCF#8

/-! ## The catalog (R100) and the parameters (R11) -/

/-- The variant of a catalog entry with the fields it carries (R100). The closed union is R104 (b) and (e): there is no
fourth variant and an unused field has no place to hold anything. -/
inductive Variant where
  | single (reg : Byte)
  | dual (msb lsb : Byte)
  | bit (reg bit : Byte)
deriving DecidableEq, Repr

/-- A catalog entry, the parameter descriptor of R100. `enabled` is held apart, in `State.en` (R32). -/
structure Entry where
  variant : Variant
  scale : F64
  offset : F64
  name : Bytes
  unit : Bytes
deriving DecidableEq, Repr

/-- REVMAP_RULE (R11, R111): which entry the reverse map keeps for a shared canonical byte. -/
inductive RevmapRule where
  | first
  | last
deriving DecidableEq, Repr

/-- The implementation parameters of R11: CAT in catalog order, LIST_MAX, NEEDLE_MAX, SYNC_BUF_CAP, REVMAP_RULE.
N is `cat.length`. Which values make a CFD is `Machine.configWf`. -/
structure Config where
  cat : List Entry
  listMax : Nat
  needleMax : Nat
  syncBufCap : Nat
  revmapRule : RevmapRule
deriving DecidableEq, Repr

/-- N, the number of catalog entries (R11). -/
def Config.size (c : Config) : Nat := c.cat.length

/-! ## The one free value -/

/-- The bits of a NaN result (binary64 leaves them open). The spec has no NaN question (R126) because no configuration of
R104 produces one: `f64Mul` and `f64Add` are total functions, and this stands where the spec states no result.
DESIGN CHOICE (notes/assumptions/5.md), safe: nothing is provable about its value. -/
opaque Config.nanPattern : F64 → F64 → F64

/-! ## The configuration of the spec's own vectors -/

/-- EXCAT, the test catalog of spec/95_test_vectors.md 0.2, ids 0 to 5. -/
def Config.excatEntries : List Entry := [
  -- 0 "Engine Speed HR": Dual 0x00/0x01, scale 12.5, offset 0.0 (R107)
  ⟨.dual 0x00#8 0x01#8, 0x4029000000000000#64, 0#64,
    [0x45#8, 0x6E#8, 0x67#8, 0x69#8, 0x6E#8, 0x65#8, 0x20#8, 0x53#8, 0x70#8, 0x65#8, 0x65#8, 0x64#8, 0x20#8, 0x48#8, 0x52#8],
    []⟩,
  -- 1 "X1": Single 0x08, scale 1.0, offset -50.0
  ⟨.single 0x08#8, 0x3FF0000000000000#64, 0xC049000000000000#64, [0x58#8, 0x31#8], []⟩,
  -- 2 "A/C On": Bit 0x13.4 (R108)
  ⟨.bit 0x13#8 4#8, 0x3FF0000000000000#64, 0#64, [0x41#8, 0x2F#8, 0x43#8, 0x20#8, 0x4F#8, 0x6E#8], []⟩,
  -- 3 "Power Steering": Bit 0x13.3 (R109)
  ⟨.bit 0x13#8 3#8, 0x3FF0000000000000#64, 0#64,
    [0x50#8, 0x6F#8, 0x77#8, 0x65#8, 0x72#8, 0x20#8, 0x53#8, 0x74#8, 0x65#8, 0x65#8, 0x72#8, 0x69#8, 0x6E#8, 0x67#8], []⟩,
  -- 4 "X4": Dual 0x04/0x05, scale 5.0
  ⟨.dual 0x04#8 0x05#8, 0x4014000000000000#64, 0#64, [0x58#8, 0x34#8], []⟩,
  -- 5 "X5": Single 0x53, scale 0.5
  ⟨.single 0x53#8, 0x3FE0000000000000#64, 0#64, [0x58#8, 0x35#8], []⟩]

/-- The configuration of spec/95_test_vectors.md 0.1 and 0.2. `State.reset` takes it, because the host's reset state has no
argument and R11 leaves every one of these OPEN. DESIGN CHOICE (notes/assumptions/1.md), unsafe for a claim that rests on
these values; no statement does. -/
def Config.excat : Config where
  cat := Config.excatEntries
  listMax := 511
  needleMax := 16
  syncBufCap := 513
  revmapRule := .first

end Sys2Proof
end

