-- ==== Sys2Proof/Machine/Float64.lean ====
section
/-! DEFINITION. Float64.lean: IEEE 754 binary64 (spec/00_scope.md R19, spec/30_encoding.md R89) on 64-bit patterns: the
class of a pattern, rounding to nearest with ties to even, multiplication, addition, and the exact conversion of a natural.
An operation takes the exact result as sign, natural significand and power of two, and rounds it once. -/
namespace Sys2Proof.Machine

/-- What a pattern stands for: not a number, an infinity, or the finite value `(-1)^neg * sig * 2^exp`. -/
inductive F64Class where
  | nan
  | infinite (neg : Bool)
  | finite (neg : Bool) (sig : Nat) (exp : Int)
deriving DecidableEq, Repr

/-- The exponent field, bits 62..52 (R89). -/
def f64Exponent (x : F64) : Nat := x.toNat / 2 ^ 52 % 2048

/-- The fraction field, bits 51..0 (R89). -/
def f64Fraction (x : F64) : Nat := x.toNat % 2 ^ 52

/-- The sign, bit 63 (R89). -/
def f64Neg (x : F64) : Bool := x.getLsbD 63

/-- The pattern is a finite value. -/
def f64IsFinite (x : F64) : Bool := f64Exponent x != 2047

/-- The class of a pattern (R89): exponent field 2047 is an infinity or a NaN, 0 a zero or a subnormal. -/
def f64Class (x : F64) : F64Class :=
  if f64Exponent x = 2047 then
    if f64Fraction x = 0 then .infinite (f64Neg x) else .nan
  else if f64Exponent x = 0 then .finite (f64Neg x) (f64Fraction x) (-1074)
  else .finite (f64Neg x) (f64Fraction x + 2 ^ 52) ((f64Exponent x : Int) - 1075)

/-- The pattern of a sign and a magnitude field (bits 62..0); a magnitude past the largest finite one is the infinity. -/
def f64Pack (neg : Bool) (mag : Nat) : F64 :=
  BitVec.ofNat 64 ((if neg then 2 ^ 63 else 0) + min mag (2047 * 2 ^ 52))

/-- `m / 2^k` rounded to the nearest natural, a tie to the even one (R19). -/
def roundShift (m k : Nat) : Nat :=
  if 2 ^ k < 2 * (m % 2 ^ k) ∨ (2 * (m % 2 ^ k) = 2 ^ k ∧ m / 2 ^ k % 2 = 1) then m / 2 ^ k + 1 else m / 2 ^ k

/-- The exponent of the last significand bit that binary64 keeps of `m * 2^e`: 53 significant bits, never below -1074. -/
def f64Quantum (m : Nat) (e : Int) : Int := max (e + (Nat.log2 m : Int) - 52) (-1074)

/-- `(-1)^neg * m * 2^e` rounded to binary64, nearest, ties to even (R19). The magnitude field is
`(quantum + 1074) * 2^52 + significand`: the hidden bit and a carry out of the significand both add one to the exponent
field. -/
def f64Round (neg : Bool) (m : Nat) (e : Int) : F64 :=
  if m = 0 then f64Pack neg 0
  else if f64Quantum m e ≤ e then
    f64Pack neg ((f64Quantum m e + 1074).toNat * 2 ^ 52 + m * 2 ^ (e - f64Quantum m e).toNat)
  else f64Pack neg ((f64Quantum m e + 1074).toNat * 2 ^ 52 + roundShift m (f64Quantum m e - e).toNat)

/-- An infinity. -/
def f64Infinity (neg : Bool) : F64 := f64Pack neg (2047 * 2 ^ 52)

/-- A NaN whose bits are otherwise free (notes/assumptions/5.md). -/
def f64Nan (a b : F64) : F64 := Config.nanPattern a b ||| 0x7FF8000000000000#64

/-- `f64_mul` of R19. -/
def f64Mul (a b : F64) : F64 :=
  match f64Class a, f64Class b with
  | .nan, _ => f64Nan a b
  | .infinite _, .nan => f64Nan a b
  | .infinite s, .infinite t => f64Infinity (s != t)
  | .infinite s, .finite t n _ => if n = 0 then f64Nan a b else f64Infinity (s != t)
  | .finite _ _ _, .nan => f64Nan a b
  | .finite s m _, .infinite t => if m = 0 then f64Nan a b else f64Infinity (s != t)
  | .finite s m e, .finite t n f => f64Round (s != t) (m * n) (e + f)

/-- A signed natural times a power of two, as an integer. -/
def signedShift (neg : Bool) (m k : Nat) : Int := if neg then -((m * 2 ^ k : Nat) : Int) else ((m * 2 ^ k : Nat) : Int)

/-- The exact sum of two finite values, rounded. A zero adds nothing; a zero sum is +0.0 unless both operands are negative
(R126 (f)). -/
def f64AddFinite (s : Bool) (m : Nat) (e : Int) (t : Bool) (n : Nat) (f : Int) : F64 :=
  if m = 0 ∧ n = 0 then f64Pack (s && t) 0
  else if m = 0 then f64Round t n f
  else if n = 0 then f64Round s m e
  else
    let sum := signedShift s m (e - min e f).toNat + signedShift t n (f - min e f).toNat
    if sum = 0 then f64Pack false 0 else f64Round (decide (sum < 0)) sum.natAbs (min e f)

/-- `f64_add` of R19. -/
def f64Add (a b : F64) : F64 :=
  match f64Class a, f64Class b with
  | .nan, _ => f64Nan a b
  | .infinite _, .nan => f64Nan a b
  | .infinite s, .infinite t => if s = t then f64Infinity s else f64Nan a b
  | .infinite s, .finite _ _ _ => f64Infinity s
  | .finite _ _ _, .nan => f64Nan a b
  | .finite _ _ _, .infinite t => f64Infinity t
  | .finite s m e, .finite t n f => f64AddFinite s m e t n f

/-- `f64(n)` of R19: the binary64 value of a natural, exact below 2^53. -/
def f64OfNat (n : Nat) : F64 := f64Round false n 0

end Sys2Proof.Machine
end

