-- ==== Sys2Proof/Machine/Catalog.lean ====
section
/-! DEFINITION. Catalog.lean: the functions of the catalog configuration (spec/41_catalog.md): registers tuple, canonical
register, key, CHECK_CAT, REVMAP, the descriptor layout (spec/30_encoding.md R88), the linear scaler
(spec/42_parameter_model.md R124) and what makes a configuration a CFD (R11, R13, R104, R110). -/
namespace Sys2Proof.Machine

/-! ## One entry -/

/-- `regs(e)`: the registers tuple, MSB then LSB for Dual (R102). -/
def regs (e : Entry) : Bytes :=
  match e.variant with
  | .single reg => [reg]
  | .dual msb lsb => [msb, lsb]
  | .bit reg _ => [reg]

/-- `canon(e)`: the canonical register, the LSB for Dual (R103). -/
def canon (e : Entry) : Byte :=
  match e.variant with
  | .single reg => reg
  | .dual _ lsb => lsb
  | .bit reg _ => reg

/-- `key(e) = (regs(e), b)` with `b` the bit index of a Bit entry (R105). -/
def key (e : Entry) : Bytes × Option Byte :=
  match e.variant with
  | .single _ => (regs e, none)
  | .dual _ _ => (regs e, none)
  | .bit _ bit => (regs e, some bit)

/-- VARIANT, REG_A, REG_B and BIT of R88. -/
def variantBytes (v : Variant) : Bytes :=
  match v with
  | .single reg => [0#8, reg, 0#8, 0#8]
  | .dual msb lsb => [1#8, msb, lsb, 0#8]
  | .bit reg bit => [2#8, reg, 0#8, bit]

/-- A length byte and the bytes: NLEN NAME, ULEN UNIT (R88). -/
def counted (s : Bytes) : Bytes := BitVec.ofNat 8 s.length :: s

/-- `DESC(e)`: the descriptor bytes of an entry (R88). -/
def desc (e : Entry) : Bytes :=
  variantBytes e.variant ++ be64 e.scale ++ be64 e.offset ++ counted e.name ++ counted e.unit

/-- The variant of four configuration bytes; refused: VARIANT above 2, a BIT above 7, an unused field that is not 0x00
(R88, R104 (b), (c), (e)). -/
def readVariant (variant regA regB bit : Byte) : Option Variant :=
  if variant = 0#8 then if regB = 0#8 ∧ bit = 0#8 then some (.single regA) else none
  else if variant = 1#8 then if bit = 0#8 then some (.dual regA regB) else none
  else if variant = 2#8 then if regB = 0#8 ∧ bit.toNat ≤ 7 then some (.bit regA bit) else none
  else none

/-- A counted byte string and the bytes after it. -/
def readCounted : Bytes → Option (Bytes × Bytes)
  | [] => none
  | n :: rest => if n.toNat ≤ rest.length then some (rest.take n.toNat, rest.drop n.toNat) else none

/-- A catalog entry read from its configuration bytes, in the layout of R88, with nothing left over. -/
def readDesc : Bytes → Option Entry
  | variant :: regA :: regB :: bit :: rest =>
    match readVariant variant regA regB bit, readBe64 rest with
    | some v, some (scale, rest1) =>
      match readBe64 rest1 with
      | some (offset, rest2) =>
        match readCounted rest2 with
        | some (name, rest3) =>
          match readCounted rest3 with
          | some (unit, []) => some ⟨v, scale, offset, name, unit⟩
          | _ => none
        | none => none
      | none => none
    | _, _ => none
  | _ => none

/-- An entry as a catalog definition gives it: a scale it does not give is 1.0, an offset it does not give 0.0 (R101). The
default is applied here, when the configuration is written; the machine sees explicit values only. -/
def defineEntry (variant : Variant) (scale offset : Option F64) (name unit : Bytes) : Entry :=
  ⟨variant, scale.getD 0x3FF0000000000000#64, offset.getD 0x0000000000000000#64, name, unit⟩

/-! ## Scaling -/

/-- `SCALE_VALUE(e, raw) = f64_add(f64_mul(f64(raw), e.scale), e.offset)`: two roundings (R124). -/
def scaleValue (e : Entry) (raw : Nat) : F64 := f64Add (f64Mul (f64OfNat raw) e.scale) e.offset

/-- The largest raw value the variant can produce (R104 (f), R125). -/
def maxRaw (e : Entry) : Nat :=
  match e.variant with
  | .single _ => 255
  | .dual _ _ => 65535
  | .bit _ _ => 1

/-! ## The names the source pins (R107 to R110) -/

/-- "Engine Speed HR", with the bytes V-CAT-14 gives it (spec/95_test_vectors.md). -/
def nameEngineSpeedHr : Bytes :=
  [0x45#8, 0x6E#8, 0x67#8, 0x69#8, 0x6E#8, 0x65#8, 0x20#8, 0x53#8, 0x70#8, 0x65#8, 0x65#8, 0x64#8, 0x20#8, 0x48#8, 0x52#8]
/-- "A/C On", with the bytes V-CAT-15 gives it (spec/95_test_vectors.md). -/
def nameAcOn : Bytes := [0x41#8, 0x2F#8, 0x43#8, 0x20#8, 0x4F#8, 0x6E#8]
/-- "Power Steering" (R109). The spec writes the name and no bytes for it (92_eei_decisions.md D29: "No encoding is given"); one
byte for each character, as in the names of V-CAT-14 to V-CAT-16, is DEDUCED (notes/assumptions/10.md). -/
def namePowerSteering : Bytes :=
  [0x50#8, 0x6F#8, 0x77#8, 0x65#8, 0x72#8, 0x20#8, 0x53#8, 0x74#8, 0x65#8, 0x65#8, 0x72#8, 0x69#8, 0x6E#8, 0x67#8]
/-- "MAF Voltage" (R110). The spec writes the name and no bytes for it (92_eei_decisions.md D29: "No encoding is given"); one
byte for each character, as in the names of V-CAT-14 to V-CAT-16, is DEDUCED (notes/assumptions/10.md).
Whether `mafDistinct` refuses a configuration turns on it. -/
def nameMafVoltage : Bytes :=
  [0x4D#8, 0x41#8, 0x46#8, 0x20#8, 0x56#8, 0x6F#8, 0x6C#8, 0x74#8, 0x61#8, 0x67#8, 0x65#8]
/-- "MAF Voltage RH" (R110). Its bytes are DEDUCED as those of `nameMafVoltage` are (notes/assumptions/10.md), and the refusal
by `mafDistinct` turns on them too. -/
def nameMafVoltageRh : Bytes := nameMafVoltage ++ [0x20#8, 0x52#8, 0x48#8]

/-! ## Well-formedness (R11, R104, R110) -/

/-- R104 (c) and (d): a bit index of at most 7, and the two registers of a Dual distinct. -/
def variantWf (v : Variant) : Bool :=
  match v with
  | .single _ => true
  | .dual msb lsb => msb != lsb
  | .bit _ bit => bit.toNat ≤ 7

/-- R104 (c), (d), (f), (g) for one entry; (b) and (e) hold by the type. Of (f), "the scaled value is finite for every raw
value" is checked at the largest raw value only: the scaler is monotone in the raw value, so the check is the same
(DEDUCED, notes/assumptions/6.md; the obligation EndpointCheckCoversEveryRawValue states it). -/
def entryWf (e : Entry) : Bool :=
  variantWf e.variant && f64IsFinite e.scale && f64IsFinite e.offset && f64IsFinite (scaleValue e (maxRaw e))
    && (e.name.length ≤ 255 && e.unit.length ≤ 255)

/-- No register address appears in the tuples of both (R110). -/
def regsDisjoint (e g : Entry) : Bool := (regs e).all fun r => !(regs g).contains r

/-- The constraint R11 puts on CAT by R110: an entry named "MAF Voltage" and one named "MAF Voltage RH" have no register in
common (notes/assumptions/9.md). The entries are known by the bytes of their names, which are the model's reading
(notes/assumptions/10.md). -/
def mafDistinct (c : Config) : Bool :=
  c.cat.all fun e => e.name != nameMafVoltage || c.cat.all fun g => g.name != nameMafVoltageRh || regsDisjoint e g

/-- The configuration is a CFD's: the bounds of R11, WF_CAT of R104 and the constraint of R110. Any other is refused (R13).
`Sys2Proof.IsCfd` (Safety.lean) says the same condition by condition. -/
def configWf (c : Config) : Bool :=
  1 ≤ c.size && c.size ≤ 255
    && (511 ≤ c.listMax && c.listMax ≤ 32767)
    && (3 ≤ c.needleMax && c.needleMax ≤ 255)
    && (c.listMax + 2 ≤ c.syncBufCap && c.syncBufCap ≤ 65535)
    && c.cat.all entryWf
    && mafDistinct c

/-! ## The whole catalog -/

/-- The identifiers `0 .. N-1` in catalog order (R62, D4). -/
def idList (c : Config) : List Nat := List.range c.size

/-- `CAT[id]`, none when `id >= N` (R62). -/
def entryAt (c : Config) (id : Byte) : Option Entry := c.cat[id.toNat]?

/-- Whether two identifiers name entries with equal keys (R105). -/
def sameKey (c : Config) (i j : Nat) : Bool := (c.cat[i]?).map key == (c.cat[j]?).map key

/-- The smallest `j` whose key equals the key of an earlier entry (R106). -/
def firstDuplicate (c : Config) : Option Nat :=
  (idList c).find? fun j => (List.range j).any fun i => sameKey c i j

/-- `C(b)`: the identifiers whose canonical register is `b`, ascending (R111). -/
def canonIds (c : Config) (b : Byte) : List Nat :=
  (idList c).filter fun i => (c.cat[i]?).map canon == some b

/-- REVMAP (R111): the first or the last of `C(b)` by REVMAP_RULE. -/
def revmap (c : Config) (b : Byte) : Option Byte :=
  match c.revmapRule with
  | .first => (canonIds c b).head?.map (BitVec.ofNat 8)
  | .last => (canonIds c b).getLast?.map (BitVec.ofNat 8)

/-- MAX_ADDR: the highest register address any entry uses (R11). -/
def maxAddr (c : Config) : Nat := ((c.cat.flatMap regs).map BitVec.toNat).foldl max 0

/-- FRAME_LEN, the nominal frame length `MAX_ADDR + 1` (R11, R70, R184); no operation requires it. -/
def frameLen (c : Config) : Nat := maxAddr c + 1

/-! ## The entries the source pins (R107 to R110)

Of these rules the constraint of R110 binds every CFD (`mafDistinct`, in `configWf`). That the entries are present is asked of
the source's own catalog only: the spec's EXCAT is a CFD and lacks two of them (notes/assumptions/9.md). -/

/-- R107: Engine Speed HR is Dual 0x00/0x01, scale 12.5, offset 0.0. -/
def pinsEngineSpeedHr (c : Config) : Bool :=
  c.cat.any fun e => e.name == nameEngineSpeedHr && e.variant == .dual 0x00#8 0x01#8
    && e.scale == 0x4029000000000000#64 && e.offset == 0#64

/-- R108 and R109: A/C On is Bit 0x13.4 and Power Steering Bit 0x13.3. -/
def pinsBitEntries (c : Config) : Bool :=
  (c.cat.any fun e => e.name == nameAcOn && e.variant == .bit 0x13#8 4#8)
    && (c.cat.any fun e => e.name == namePowerSteering && e.variant == .bit 0x13#8 3#8)

/-- R110: MAF Voltage and MAF Voltage RH are present and have no register in common. -/
def pinsMafEntries (c : Config) : Bool :=
  c.cat.any fun e => e.name == nameMafVoltage && c.cat.any fun g => g.name == nameMafVoltageRh && regsDisjoint e g

/-- The configuration holds every entry the source pins (R107 to R110). -/
def configPinned (c : Config) : Bool := pinsEngineSpeedHr c && pinsBitEntries c && pinsMafEntries c

end Sys2Proof.Machine
end

