-- ==== Sys2Proof/Syntax.lean ====
section
/-! DEFINITION. Syntax.lean: every row of spec/opcode_table.json as a constructor of `Instr`: the 14 operations of the
command port (spec/30_encoding.md R83) and the 6 wire tokens of the Consult protocol (R91, R92); and the packet an agent
hands to CFD. -/
namespace Sys2Proof

/-- One decoded operation with its operands (R82), or one wire token. -/
inductive Instr where
  /-- `ENABLE id, v` (R112). -/
  | enable (id : Byte) (v : Bool)
  /-- `ENUM_ALL` (R113). -/
  | enumAll
  /-- `ENUM_ENABLED` (R114). -/
  | enumEnabled
  /-- `COUNT_ENABLED` (R115). -/
  | countEnabled
  /-- `LOOKUP_ID id` (R116). -/
  | lookupId (id : Byte)
  /-- `LOOKUP_REG b` (R117). -/
  | lookupReg (b : Byte)
  /-- `EXTRACT id, frame` (R127). -/
  | extract (id : Byte) (frame : Bytes)
  /-- `VALUE id, frame` (R128). -/
  | value (id : Byte) (frame : Bytes)
  /-- `SCAN needle, buffer` (R146). -/
  | scan (needle buffer : Bytes)
  /-- `BUILD_CMD ids` (R160). -/
  | buildCmd (ids : Bytes)
  /-- `PARSE_CMD bytes` (R161). -/
  | parseCmd (bytes : Bytes)
  /-- `DECODE frame` (R180). -/
  | decodeFrame (frame : Bytes)
  /-- `SYNC_PUSH chunk` (R204). -/
  | syncPush (chunk : Bytes)
  /-- `SYNC_STATUS` (R205). -/
  | syncStatus
  /-- The marker pair `0x5A r` (R91). -/
  | wireMarkerPair (r : Byte)
  /-- STREAM_START `0xF0` (R91). -/
  | wireStreamStart
  /-- INIT `0xFF 0xFF 0xEF` (R91). -/
  | wireInit
  /-- INIT_RESPONSE `0x10` (R92). -/
  | wireInitResponse
  /-- STREAM_STOP `0x30` (R92). -/
  | wireStreamStop
  /-- STOP_ACK `0xCF` (R92). -/
  | wireStopAck
deriving DecidableEq, Repr

/-- The two encoding spaces of spec/30_encoding.md: a request packet of the command port (R80), or bytes that travelled on
the Consult wire (R90 to R92), which reach CFD only as the chunk of a push (notes/assumptions/3.md). A packet carries its
own end (R80). -/
inductive Packet where
  | request (bytes : Bytes)
  | wire (bytes : Bytes)
deriving DecidableEq, Repr

/-- Whether an instruction is a token of the wire space. -/
def Instr.isWire : Instr → Bool
  | .enable _ _ => false
  | .enumAll => false
  | .enumEnabled => false
  | .countEnabled => false
  | .lookupId _ => false
  | .lookupReg _ => false
  | .extract _ _ => false
  | .value _ _ => false
  | .scan _ _ => false
  | .buildCmd _ => false
  | .parseCmd _ => false
  | .decodeFrame _ => false
  | .syncPush _ => false
  | .syncStatus => false
  | .wireMarkerPair _ => true
  | .wireStreamStart => true
  | .wireInit => true
  | .wireInitResponse => true
  | .wireStreamStop => true
  | .wireStopAck => true

end Sys2Proof
end

