-- ==== Sys2Proof/Machine/State.lean ====
section
/-! DEFINITION. State.lean: the state of CFD (spec/10_state.md R32 to R36), its configuration (R38, R39), the command port
with what stands before and behind it (spec/30_encoding.md R80, spec/20_memory.md R64, R65), the errors (spec/60_exceptions.md
R220), the reasons a step can stop, and reset (spec/70_reset_and_hazards.md R251, R252). Plain data throughout. -/
namespace Sys2Proof.Machine

/-! ## Architectural state -/

/-- SYNC_STATE (R33). -/
inductive SyncState where
  | uninitialized
  | initialized
deriving DecidableEq, Repr

/-- CFG_STATUS (R35). -/
inductive CfgStatus where
  | ready
  | configFault (id : Byte)
deriving DecidableEq, Repr

/-! ## The command port -/

/-- The two issuers of requests (R8). -/
inductive Agent where
  | control
  | worker
deriving DecidableEq, Repr

/-- What happens next at the port: an agent's next request is accepted, or the reset source asserts reset (R8, R65, R250). -/
inductive Turn where
  | agent (a : Agent)
  | reset
deriving DecidableEq, Repr

/-- A response packet (R87) and the agent it goes to. -/
structure Answer where
  agent : Agent
  bytes : Bytes
deriving DecidableEq, Repr

/-! ## Errors -/

/-- The error kinds of R220, each with the info its rule gives (R223 to R229). An error is a response, not a trap (R233). -/
inductive OpError where
  | unknownParameterIdentifier (id : Byte)
  | unresolvableRegisterByte (byte : Byte)
  | frameTooShort (id reg : Byte)
  | duplicateRegisterMapping (id : Byte)
  | illegalOperation (opc : Byte)
  | malformedRequest
  | syncBufferOverflow
deriving DecidableEq, Repr

/-! ## The machine -/

/-- The state of a CFD with the requests its agents have still to put to it. `en`, `syncState`, `syncBuf` and `cfgStatus` are
the state elements of R32 to R35; `config` is the configuration of R38, which nothing writes; the last five fields are the
model's own picture of the port and of the agents outside (notes/assumptions/2.md). -/
structure State where
  /-- CAT and the parameters of R11: read only (R38). -/
  config : Config
  /-- EN, bit `i` the enabled flag of entry `i` (R32). -/
  en : List Bool
  /-- SYNC_STATE (R33). -/
  syncState : SyncState
  /-- SYNC_BUF; its length is SYNC_LEN (R34). -/
  syncBuf : Bytes
  /-- CFG_STATUS (R35). -/
  cfgStatus : CfgStatus
  /-- The control agent's packets not yet accepted, in the order it issued them (R65). -/
  control : List Packet
  /-- The worker agent's packets not yet accepted, in the order it issued them (R65). -/
  worker : List Packet
  /-- Who comes next, in order: the interleaving R65 leaves open and the reset events of R250, as data. -/
  turns : List Turn
  /-- The agent whose request is being answered: the port's return path only; no operation reads it (R236). -/
  serving : Agent
  /-- Every response given, oldest first (R80, R263). -/
  responses : List Answer
deriving DecidableEq, Repr

/-! ## How a step can stop -/

/-- CFD has no fault: an error is a response (R233, R244 (a)), the configuration fault answers every request (R244 (b)), no
request is stuck and none hangs (R244 (d), (e)). So there is no constructor. -/
inductive Fault : Type
deriving DecidableEq, Repr

/-- Why a step is refused. -/
inductive Refusal where
  /-- Raised by `exec`'s arm of an instruction that has no meaning yet; safe. No arm raises it. -/
  | notModelled (mnemonic : String)
  /-- Raised by `step` when the state's configuration breaks R11 (with R110's constraint on CAT) or R104: "is not a CFD: a model refuses it and gives it no
  machine" (R13, R244 (c)); safe. -/
  | illFormedConfiguration
deriving DecidableEq, Repr

/-! ## Reset -/

/-- CHECK_CAT (R106): the first duplicate key makes a configuration fault naming the later entry. -/
def checkCat (c : Config) : CfgStatus :=
  match firstDuplicate c with
  | some j => .configFault (BitVec.ofNat 8 j)
  | none => .ready

/-- A CFD of configuration `c` right after reset (R251, R252), with no request waiting and none answered. -/
def State.resetOf (c : Config) : State where
  config := c
  en := List.replicate c.size false
  syncState := .uninitialized
  syncBuf := []
  cfgStatus := checkCat c
  control := []
  worker := []
  turns := []
  serving := .control
  responses := []

/-- The reset state, for the configuration of the spec's own vectors: the spec leaves the configuration open (R11) and this
name takes no argument (notes/assumptions/1.md). `State.resetOf` is reset for every configuration. -/
def State.reset : State := State.resetOf Config.excat

end Sys2Proof.Machine
end

