-- ==== Sys2Proof/Machine/Flags.lean ====
section
/-! DEFINITION. Flags.lean: the result flags, which live in a response only (spec/10_state.md R37), and the status byte.
CFD keeps no flag between operations. -/
namespace Sys2Proof.Machine

/-- FOUND, PRESENT and DISPATCHED: one byte, 0 or 1 (R87). -/
def flagByte (b : Bool) : Byte := if b then 1#8 else 0#8

/-- `[STATE]`: the value of SYNC_STATE (R33, R87). -/
def syncStateByte : SyncState → Byte
  | .uninitialized => 0#8
  | .initialized => 1#8

/-- `[DISPATCHED] [CMD]`: the command byte, or 0x00 when nothing is dispatched; CFD does nothing else with
it (R87, R203, R204). -/
def dispatchBytes : Option Byte → Bytes
  | some c => [flagByte true, c]
  | none => [flagByte false, 0#8]

/-- `[PRESENT] [ID]`: the identifier byte is 0x00 when there is none (R117). -/
def presentBytes : Option Byte → Bytes
  | some id => [flagByte true, id]
  | none => [flagByte false, 0#8]

/-- Status 0x00, OK (R220). -/
def statusOk : Byte := 0x00#8

/-- The status byte of an error (R220). -/
def errorStatus : OpError → Byte
  | .unknownParameterIdentifier _ => 0x01#8
  | .unresolvableRegisterByte _ => 0x02#8
  | .frameTooShort _ _ => 0x03#8
  | .duplicateRegisterMapping _ => 0x04#8
  | .illegalOperation _ => 0x05#8
  | .malformedRequest => 0x06#8
  | .syncBufferOverflow => 0x07#8

/-- The info bytes of an error (R220). -/
def errorInfo : OpError → Bytes
  | .unknownParameterIdentifier id => [id]
  | .unresolvableRegisterByte byte => [byte]
  | .frameTooShort id reg => [id, reg]
  | .duplicateRegisterMapping id => [id]
  | .illegalOperation opc => [opc]
  | .malformedRequest => []
  | .syncBufferOverflow => []

/-- An error response is exactly `[status] ++ info` (R221). -/
def errorResponse (r : OpError) : Bytes := errorStatus r :: errorInfo r

end Sys2Proof.Machine
end

