-- ==== Sys2Proof/Machine/Operands.lean ====
section
/-! DEFINITION. Operands.lean: how an operation reads its operands: a byte of the frame with its bounds check
(spec/20_memory.md R60, spec/42_parameter_model.md R120), the raw value of an entry in a frame (R121 to R123), a bit of the
enable vector (spec/00_scope.md R17). -/
namespace Sys2Proof.Machine

/-- `NEED(id, a, F)` and the read of `F[a]` it guards (R60, R120): FrameTooShort `[id, a]` when `a >= len(F)`. -/
def frameByte (id a : Byte) (frame : Bytes) : Except OpError Byte :=
  match frame[a.toNat]? with
  | some b => .ok b
  | none => .error (.frameTooShort id a)

/-- The big-endian pair `(hi << 8) | lo` (R66, R122). -/
def bigEndianPair (hi lo : Byte) : Raw := (hi.setWidth 16 <<< 8) ||| lo.setWidth 16

/-- Bit `i` of a byte as a raw value, bit 0 least significant (R15, R123). -/
def bitOf (b : Byte) (i : Nat) : Raw := BitVec.ofNat 16 (b.toNat / 2 ^ i % 2)

/-- `UNSCALED(id, F)` for the entry `e` at `id` (R121 to R123); of a Dual the MSB address is checked first (R122). -/
def unscaled (id : Byte) (e : Entry) (frame : Bytes) : Except OpError Raw :=
  match e.variant with
  | .single reg =>
    match frameByte id reg frame with
    | .ok b => .ok (b.setWidth 16)
    | .error r => .error r
  | .dual msb lsb =>
    match frameByte id msb frame with
    | .ok hi =>
      match frameByte id lsb frame with
      | .ok lo => .ok (bigEndianPair hi lo)
      | .error r => .error r
    | .error r => .error r
  | .bit reg bit =>
    match frameByte id reg frame with
    | .ok b => .ok (bitOf b bit.toNat)
    | .error r => .error r

/-- `EN[i]` (R17, R32). -/
def enBit (s : State) (i : Nat) : Bool := s.en.getD i false

/-- The identifiers `i` in `0 .. N-1` with `EN[i] = 1`, ascending (R114). -/
def enabledIds (s : State) : List Nat := (idList s.config).filter (enBit s)

end Sys2Proof.Machine
end

