-- ==== Sys2Proof/Machine/Ops.lean ====
section
/-! DEFINITION. Ops.lean: the shared operations over the state: the writers of its elements, answering, the two ways an
operation ends (spec/00_scope.md R18), raising an error (spec/60_exceptions.md R220 to R222, R233) and reset
(spec/70_reset_and_hazards.md R250 to R252). CFD has no trap to enter and none to return from (R233, R234): what another
machine does in taking an exception is here `raise`, and the next request is simply accepted. -/
namespace Sys2Proof.Machine

/-! ## Writers -/

/-- `EN[i] <- v` (R17, R32). -/
def State.setEn (s : State) (i : Nat) (v : Bool) : State := { s with en := s.en.set i v }

/-- `SYNC_STATE <- st; SYNC_BUF <- buf` (R204). -/
def State.setSync (s : State) (st : SyncState) (buf : Bytes) : State := { s with syncState := st, syncBuf := buf }

/-- The port gives one response packet to the agent being served (R80). -/
def State.answer (s : State) (bytes : Bytes) : State :=
  { s with responses := s.responses ++ [⟨s.serving, bytes⟩] }

/-! ## The two ends of an operation -/

/-- `respond(p)`: status OK and the payload (R18, R87). -/
def respond (s : State) (payload : Bytes) : Host.Outcome State Fault Refusal := .next (s.answer (statusOk :: payload))

/-- `raise E(info)`: the error response, and no state written (R18, R221, R222). -/
def raise (s : State) (r : OpError) : Host.Outcome State Fault Refusal := .next (s.answer (errorResponse r))

/-- One operation as an atomic transition (R64): the configuration fault comes first (R226, R230); then the body's result, the
state it writes with its payload, or its error, in which case nothing is written. -/
def operate (s : State) (body : Except OpError (State × Bytes)) : Host.Outcome State Fault Refusal :=
  match s.cfgStatus with
  | .configFault id => raise s (.duplicateRegisterMapping id)
  | .ready =>
    match body with
    | .ok (t, payload) => respond t payload
    | .error r => raise s r

/-! ## Reset -/

/-- The reset event: every state element at its reset value, whatever it held; the configuration, the agents' waiting packets
and the responses already given are not touched (R250, R251). -/
def State.afterReset (s : State) : State :=
  { s with
    en := List.replicate s.config.size false
    syncState := .uninitialized
    syncBuf := []
    cfgStatus := checkCat s.config }

end Sys2Proof.Machine
end

