-- ==== Sys2Proof/Machine/ByteScanner.lean ====
section
/-! DEFINITION. ByteScanner.lean: the pure matcher SCAN_MATCH (spec/43_byte_scanner.md R140 to R145) and SCAN (R146). -/
namespace Sys2Proof.Machine

/-- The bytes strictly after the first occurrence of `needle`, the one with the smallest start index (R141). -/
def afterFirst (needle : Bytes) : Bytes → Option Bytes
  | [] => if needle.isPrefixOf [] then some [] else none
  | b :: rest =>
    if needle.isPrefixOf (b :: rest) then some ((b :: rest).drop needle.length) else afterFirst needle rest

/-- The longest suffix of the buffer that is a proper prefix of `needle`, empty if there is none (R142, R143). -/
def partialSuffix (needle : Bytes) : Bytes → Bytes
  | [] => []
  | b :: rest =>
    if (b :: rest).length < needle.length ∧ (b :: rest).isPrefixOf needle then b :: rest else partialSuffix needle rest

/-- `SCAN_MATCH(buf, needle) = (found, remainder)` (R140). -/
def scanMatch (buf needle : Bytes) : Bool × Bytes :=
  match afterFirst needle buf with
  | some rest => (true, rest)
  | none => (false, partialSuffix needle buf)

/-- SCAN (R146): `respond([f] ++ BE16(len(r)) ++ r)`. -/
def execScan (needle buffer : Bytes) (s : State) : Host.Outcome State Fault Refusal :=
  operate s (.ok (s, flagByte (scanMatch buffer needle).1 ::
    (be16 (scanMatch buffer needle).2.length ++ (scanMatch buffer needle).2)))

end Sys2Proof.Machine
end

