-- ==== Sys2Proof/Machine/CatalogOps.lean ====
section
/-! DEFINITION. CatalogOps.lean: ENABLE, ENUM_ALL, ENUM_ENABLED, COUNT_ENABLED, LOOKUP_ID, LOOKUP_REG
(spec/41_catalog.md R112 to R117). -/
namespace Sys2Proof.Machine

/-- ENABLE (R112): `if ID >= N: raise UnknownParameterIdentifier([ID]); EN[ID] <- V; respond([])`. -/
def execEnable (id : Byte) (v : Bool) (s : State) : Host.Outcome State Fault Refusal :=
  operate s (if id.toNat < s.config.size then .ok (s.setEn id.toNat v, []) else .error (.unknownParameterIdentifier id))

/-- ENUM_ALL (R113): `respond([N] ++ [0, 1, ..., N-1])`. -/
def execEnumAll (s : State) : Host.Outcome State Fault Refusal :=
  operate s (.ok (s, BitVec.ofNat 8 s.config.size :: (idList s.config).map (BitVec.ofNat 8)))

/-- ENUM_ENABLED (R114): `respond([len(ids)] ++ ids)`. -/
def execEnumEnabled (s : State) : Host.Outcome State Fault Refusal :=
  operate s (.ok (s, BitVec.ofNat 8 (enabledIds s).length :: (enabledIds s).map (BitVec.ofNat 8)))

/-- COUNT_ENABLED (R115): `K = number of i in 0 .. N-1 with EN[i] = 1; respond([K])`. -/
def execCountEnabled (s : State) : Host.Outcome State Fault Refusal :=
  operate s (.ok (s, [BitVec.ofNat 8 ((idList s.config).countP (enBit s))]))

/-- LOOKUP_ID (R116): `if ID >= N: raise UnknownParameterIdentifier([ID]); respond(DESC(CAT[ID]))`. -/
def execLookupId (id : Byte) (s : State) : Host.Outcome State Fault Refusal :=
  operate s (match entryAt s.config id with
    | some e => .ok (s, desc e)
    | none => .error (.unknownParameterIdentifier id))

/-- LOOKUP_REG (R117): `r = REVMAP(B); if r = none: respond([0x00, 0x00]) else respond([0x01, id of r])`. -/
def execLookupReg (b : Byte) (s : State) : Host.Outcome State Fault Refusal :=
  operate s (.ok (s, presentBytes (revmap s.config b)))

end Sys2Proof.Machine
end

