-- ==== Sys2Proof/Machine/CommandCodec.lean ====
section
/-! DEFINITION. CommandCodec.lean: BUILD_CMD and PARSE_CMD (spec/44_command_codec.md R160 to R164). Neither reads EN. -/
namespace Sys2Proof.Machine

/-- The wire command for a list of identifiers (R160): a marker pair each, in order, then STREAM_START; the first identifier
`>= N` is the error. -/
def buildCommand (c : Config) : Bytes → Except OpError Bytes
  | [] => .ok [Config.streamStart]
  | id :: ids =>
    match entryAt c id with
    | none => .error (.unknownParameterIdentifier id)
    | some e =>
      match buildCommand c ids with
      | .ok out => .ok (Config.marker :: canon e :: out)
      | .error r => .error r

/-- The identifiers of a wire command (R161): skip 0x5A, stop at the first 0xF0, resolve every other byte through REVMAP; the
first byte that does not resolve is the error. -/
def parseCommand (c : Config) : Bytes → Except OpError Bytes
  | [] => .ok []
  | b :: rest =>
    if b = Config.marker then parseCommand c rest
    else if b = Config.streamStart then .ok []
    else
      match revmap c b with
      | none => .error (.unresolvableRegisterByte b)
      | some id =>
        match parseCommand c rest with
        | .ok ids => .ok (id :: ids)
        | .error r => .error r

/-- A length-counted answer: `BE16(len(out)) ++ out`. -/
def countedPayload (s : State) (out : Except OpError Bytes) : Except OpError (State × Bytes) :=
  match out with
  | .ok bytes => .ok (s, be16 bytes.length ++ bytes)
  | .error r => .error r

/-- BUILD_CMD (R160, R164). -/
def execBuildCmd (ids : Bytes) (s : State) : Host.Outcome State Fault Refusal :=
  operate s (countedPayload s (buildCommand s.config ids))

/-- PARSE_CMD (R161, R162). -/
def execParseCmd (bytes : Bytes) (s : State) : Host.Outcome State Fault Refusal :=
  operate s (countedPayload s (parseCommand s.config bytes))

end Sys2Proof.Machine
end

