-- ==== Sys2Proof/Machine/FrameDecoder.lean ====
section
/-! DEFINITION. FrameDecoder.lean: DECODE (spec/45_frame_decoder.md R180 to R184). -/
namespace Sys2Proof.Machine

/-- The values of the named entries in one frame, in the order named; the first that reads past the frame is the error, and
then there is no value at all (R180, R182). -/
def valuesOf (c : Config) (frame : Bytes) : List Nat → Except OpError (List (Byte × F64))
  | [] => .ok []
  | i :: rest =>
    match c.cat[i]? with
    | none => valuesOf c frame rest
    | some e =>
      match unscaled (BitVec.ofNat 8 i) e frame with
      | .error r => .error r
      | .ok raw =>
        match valuesOf c frame rest with
        | .error r => .error r
        | .ok out => .ok ((BitVec.ofNat 8 i, scaleValue e raw.toNat) :: out)

/-- `[i] ++ BE64(value)`. -/
def pairBytes (p : Byte × F64) : Bytes := p.1 :: be64 p.2

/-- DECODE (R180): only the enabled parameters (R181), in ascending identifier order (R183): `respond([K] ++ out)`. -/
def execDecodeFrame (frame : Bytes) (s : State) : Host.Outcome State Fault Refusal :=
  operate s (match valuesOf s.config frame (enabledIds s) with
    | .ok out => .ok (s, BitVec.ofNat 8 out.length :: out.flatMap pairBytes)
    | .error r => .error r)

end Sys2Proof.Machine
end

