-- ==== Sys2Proof/Machine/ParameterModel.lean ====
section
/-! DEFINITION. ParameterModel.lean: EXTRACT and VALUE (spec/42_parameter_model.md R127, R128). Neither reads EN (R129). -/
namespace Sys2Proof.Machine

/-- The raw value of one parameter in one frame: UnknownParameterIdentifier before the frame is looked at (R127, R223). -/
def rawOf (c : Config) (id : Byte) (frame : Bytes) : Except OpError (Entry × Raw) :=
  match entryAt c id with
  | none => .error (.unknownParameterIdentifier id)
  | some e =>
    match unscaled id e frame with
    | .ok raw => .ok (e, raw)
    | .error r => .error r

/-- EXTRACT (R127): `respond(BE16(raw))`. -/
def execExtract (id : Byte) (frame : Bytes) (s : State) : Host.Outcome State Fault Refusal :=
  operate s (match rawOf s.config id frame with
    | .ok (_, raw) => .ok (s, be16 raw.toNat)
    | .error r => .error r)

/-- VALUE (R128): `respond(BE64(SCALE_VALUE(CAT[ID], raw)))`. -/
def execValue (id : Byte) (frame : Bytes) (s : State) : Host.Outcome State Fault Refusal :=
  operate s (match rawOf s.config id frame with
    | .ok (e, raw) => .ok (s, be64 (scaleValue e raw.toNat))
    | .error r => .error r)

end Sys2Proof.Machine
end

