-- ==== Sys2Proof/Machine/StreamSynchronizer.lean ====
section
/-! DEFINITION. StreamSynchronizer.lean: the two-state synchronizer, SYNC_PUSH and SYNC_STATUS
(spec/46_stream_synchronizer.md R200 to R205). -/
namespace Sys2Proof.Machine

/-- What one synchronizer step leaves: state, buffer, dispatched command byte. -/
structure SyncResult where
  state : SyncState
  buf : Bytes
  dispatch : Option Byte
deriving DecidableEq, Repr

/-- STEP_U (R201): look for the init marker; the bytes after it are not searched in this step. -/
def stepU (buf : Bytes) : SyncResult :=
  match scanMatch buf Config.initMarker with
  | (true, rem) => ⟨.initialized, rem, none⟩
  | (false, rem) => ⟨.uninitialized, rem, none⟩

/-- STEP_I (R202): the first 0x5A that has a byte after it; that byte is dispatched and everything up to it discarded; with
no such pair the whole buffer is kept. -/
def stepI (buf : Bytes) : SyncResult :=
  match scanMatch buf [Config.marker] with
  | (true, c :: rem) => ⟨.initialized, rem, some c⟩
  | (true, []) => ⟨.initialized, buf, none⟩
  | (false, _) => ⟨.initialized, buf, none⟩

/-- The step of the state SYNC_STATE selects (R204, R239). -/
def syncStep (st : SyncState) (buf : Bytes) : SyncResult :=
  match st with
  | .uninitialized => stepU buf
  | .initialized => stepI buf

/-- The body of SYNC_PUSH (R204): SyncBufferOverflow when the buffer the step leaves is longer than SYNC_BUF_CAP. -/
def pushBody (s : State) (chunk : Bytes) : Except OpError (State × Bytes) :=
  let r := syncStep s.syncState (s.syncBuf ++ chunk)
  if s.config.syncBufCap < r.buf.length then .error .syncBufferOverflow
  else .ok (s.setSync r.state r.buf, syncStateByte r.state :: dispatchBytes r.dispatch)

/-- SYNC_PUSH (R204). -/
def execSyncPush (chunk : Bytes) (s : State) : Host.Outcome State Fault Refusal := operate s (pushBody s chunk)

/-- SYNC_STATUS (R205): `respond([SYNC_STATE] ++ BE16(len(SYNC_BUF)) ++ SYNC_BUF)`. -/
def execSyncStatus (s : State) : Host.Outcome State Fault Refusal :=
  operate s (.ok (s, syncStateByte s.syncState :: (be16 s.syncBuf.length ++ s.syncBuf)))

end Sys2Proof.Machine
end

