-- ==== Sys2Proof/WellFormed.lean ====
section
/-! DEFINITION. WellFormed.lean: which instructions a request of one configuration can carry (spec/30_encoding.md R82, R86):
a list of at most LIST_MAX bytes and a needle of 1 to NEEDLE_MAX bytes. ID, B and every DATA byte take every value. -/
namespace Sys2Proof

/-- A list operand fits: `LEN <= LIST_MAX` (R82). -/
def listFits (c : Config) (data : Bytes) : Bool := data.length ≤ c.listMax

/-- A needle fits: `1 <= NLEN <= NEEDLE_MAX` (R82, R86). -/
def needleFits (c : Config) (needle : Bytes) : Bool := 1 ≤ needle.length && needle.length ≤ c.needleMax

/-- The instruction can be carried by a packet of a CFD with configuration `c` (R86). -/
def Instr.wf (c : Config) : Instr → Bool
  | .enable _ _ => true
  | .enumAll => true
  | .enumEnabled => true
  | .countEnabled => true
  | .lookupId _ => true
  | .lookupReg _ => true
  | .extract _ frame => listFits c frame
  | .value _ frame => listFits c frame
  | .scan needle buffer => needleFits c needle && listFits c buffer
  | .buildCmd ids => listFits c ids
  | .parseCmd bytes => listFits c bytes
  | .decodeFrame frame => listFits c frame
  | .syncPush chunk => listFits c chunk
  | .syncStatus => true
  | .wireMarkerPair _ => true
  | .wireStreamStart => true
  | .wireInit => true
  | .wireInitResponse => true
  | .wireStreamStop => true
  | .wireStopAck => true

end Sys2Proof
end

