-- ==== Sys2Proof/Decode.lean ====
section
/-! DEFINITION. Decode.lean: the decoder of both encoding spaces, total on every packet (spec/30_encoding.md R84, R85, R91,
R92), then the encoder written from the same layouts (R81, R83), and the reading of an opcode-table word. -/
namespace Sys2Proof

open Sys2Proof.Machine (be16 readBe16)

/-- The two ways R84 refuses a request. -/
inductive Reject where
  /-- OPC is not in R83 (R85, R227). -/
  | illegalOperation (opc : Byte)
  /-- The packet is empty or its bytes do not fit the opcode's format (R228). -/
  | malformedRequest
deriving DecidableEq, Repr

/-! ## Formats (R81, R84): the bytes after OPC -/

/-- F-N: nothing. -/
def formatN (i : Instr) : Bytes → Except Reject Instr
  | [] => .ok i
  | _ => .error .malformedRequest

/-- F-I and F-B: one byte. -/
def formatI (mk : Byte → Instr) : Bytes → Except Reject Instr
  | [x] => .ok (mk x)
  | _ => .error .malformedRequest

/-- F-IV: an identifier and a Boolean byte, 0 or 1. -/
def formatIV (mk : Byte → Bool → Instr) : Bytes → Except Reject Instr
  | [id, v] =>
    if v = 0#8 then .ok (mk id false)
    else if v = 1#8 then .ok (mk id true)
    else .error .malformedRequest
  | _ => .error .malformedRequest

/-- F-L: BE16 LEN, at most LIST_MAX, then exactly LEN bytes. -/
def formatL (c : Config) (mk : Bytes → Instr) : Bytes → Except Reject Instr
  | hi :: lo :: data =>
    if readBe16 hi lo ≤ c.listMax then
      if data.length = readBe16 hi lo then .ok (mk data) else .error .malformedRequest
    else .error .malformedRequest
  | _ => .error .malformedRequest

/-- F-IL: an identifier, then F-L. -/
def formatIL (c : Config) (mk : Byte → Bytes → Instr) : Bytes → Except Reject Instr
  | id :: rest => formatL c (mk id) rest
  | _ => .error .malformedRequest

/-- F-NL: NLEN, 1 to NEEDLE_MAX, NLEN needle bytes, then F-L. -/
def formatNL (c : Config) (mk : Bytes → Bytes → Instr) : Bytes → Except Reject Instr
  | nlen :: rest =>
    if 1 ≤ nlen.toNat ∧ nlen.toNat ≤ c.needleMax then
      if nlen.toNat + 2 ≤ rest.length then formatL c (mk (rest.take nlen.toNat)) (rest.drop nlen.toNat)
      else .error .malformedRequest
    else .error .malformedRequest
  | _ => .error .malformedRequest

/-- DECODE_REQUEST of R84 with the operation map of R83. -/
def decodeRequest (c : Config) : Bytes → Except Reject Instr
  | [] => .error .malformedRequest
  | opc :: rest =>
    if opc = 0x01#8 then formatIV .enable rest
    else if opc = 0x02#8 then formatN .enumAll rest
    else if opc = 0x03#8 then formatN .enumEnabled rest
    else if opc = 0x04#8 then formatN .countEnabled rest
    else if opc = 0x05#8 then formatI .lookupId rest
    else if opc = 0x06#8 then formatI .lookupReg rest
    else if opc = 0x10#8 then formatIL c .extract rest
    else if opc = 0x11#8 then formatIL c .value rest
    else if opc = 0x20#8 then formatNL c .scan rest
    else if opc = 0x30#8 then formatL c .buildCmd rest
    else if opc = 0x31#8 then formatL c .parseCmd rest
    else if opc = 0x40#8 then formatL c .decodeFrame rest
    else if opc = 0x50#8 then formatL c .syncPush rest
    else if opc = 0x51#8 then formatN .syncStatus rest
    else .error (.illegalOperation opc)

/-- The wire token a byte sequence spells, if it spells exactly one (R91, R92). -/
def wireToken (bytes : Bytes) : Option Instr :=
  if bytes = Config.initMarker then some .wireInit
  else match bytes with
    | [x] =>
      if x = Config.streamStart then some .wireStreamStart
      else if x = Config.initResponse then some .wireInitResponse
      else if x = Config.streamStop then some .wireStreamStop
      else if x = Config.stopAck then some .wireStopAck
      else none
    | [x, r] => if x = Config.marker then some (.wireMarkerPair r) else none
    | _ => none

/-- Wire bytes: the token they spell; any other bytes are ordinary stream bytes, which reach CFD as a pushed chunk (R92,
R204). DESIGN CHOICE (notes/assumptions/3.md). -/
def decodeWire (c : Config) (bytes : Bytes) : Except Reject Instr :=
  match wireToken bytes with
  | some i => .ok i
  | none => if listFits c bytes then .ok (.syncPush bytes) else .error .malformedRequest

/-- The decoder: total on every packet. -/
def decode (c : Config) : Packet → Except Reject Instr
  | .request bytes => decodeRequest c bytes
  | .wire bytes => decodeWire c bytes

/-! ## The encoder (R81, R83, R91, R92) -/

/-- `[LEN15..8] [LEN7..0] DATA`. -/
def encodeList (data : Bytes) : Bytes := be16 data.length ++ data

/-- The bytes of an instruction: a request packet, or the bytes of a wire token. -/
def encode : Instr → Bytes
  | .enable id v => [0x01#8, id, if v then 1#8 else 0#8]
  | .enumAll => [0x02#8]
  | .enumEnabled => [0x03#8]
  | .countEnabled => [0x04#8]
  | .lookupId id => [0x05#8, id]
  | .lookupReg b => [0x06#8, b]
  | .extract id frame => 0x10#8 :: id :: encodeList frame
  | .value id frame => 0x11#8 :: id :: encodeList frame
  | .scan needle buffer => 0x20#8 :: BitVec.ofNat 8 needle.length :: (needle ++ encodeList buffer)
  | .buildCmd ids => 0x30#8 :: encodeList ids
  | .parseCmd bytes => 0x31#8 :: encodeList bytes
  | .decodeFrame frame => 0x40#8 :: encodeList frame
  | .syncPush chunk => 0x50#8 :: encodeList chunk
  | .syncStatus => [0x51#8]
  | .wireMarkerPair r => [Config.marker, r]
  | .wireStreamStart => [Config.streamStart]
  | .wireInit => Config.initMarker
  | .wireInitResponse => [Config.initResponse]
  | .wireStreamStop => [Config.streamStop]
  | .wireStopAck => [Config.stopAck]

/-- The packet that carries an instruction, in its own space. -/
def Instr.packet (i : Instr) : Packet := if i.isWire then .wire (encode i) else .request (encode i)

/-! ## Pseudo-operations (R95) -/

/-- `DISABLE id` is `ENABLE id, 0`. -/
def disable (id : Byte) : Instr := .enable id false

/-- `SYNC_POLL` is a push of an empty chunk. -/
def syncPoll : Instr := .syncPush []

/-- `SCAN_INIT buffer` scans for the init marker. -/
def scanInit (buffer : Bytes) : Instr := .scan Config.initMarker buffer

/-! ## Words of the opcode table -/

/-- Byte `k` of a table word of `nbits` bits, bit 0 the least significant bit of the first byte; bits above `nbits` are 0. -/
def tableByte (nbits w k : Nat) : Byte := if k < nbits / 8 then BitVec.ofNat 8 (w / 2 ^ (8 * k)) else 0#8

/-- The length of the request whose bytes are `b 0, b 1, …`, from its opcode and its length fields (R81, R83); none for an
opcode that is not assigned. -/
def requestLength (b : Nat → Byte) : Option Nat :=
  match (b 0).toNat with
  | 0x01 => some 3
  | 0x02 | 0x03 | 0x04 | 0x51 => some 1
  | 0x05 | 0x06 => some 2
  | 0x10 | 0x11 => some (4 + readBe16 (b 2) (b 3))
  | 0x20 => some (4 + (b 1).toNat + readBe16 (b (2 + (b 1).toNat)) (b (3 + (b 1).toNat)))
  | 0x30 | 0x31 | 0x40 | 0x50 => some (3 + readBe16 (b 1) (b 2))
  | _ => none

/-- The packet of a table word. A request row numbers byte 0 as bits 7..0. A wire row is "consecutive wire bytes, first byte
most significant" (the table's match_scope), so a word whose first byte is no opcode is read that way, and failing that with
the first byte least significant; where both spaces name a row (0x10 and 0x30 as 8 bits) it is the request
(notes/assumptions/4.md). -/
def tablePacket (nbits w : Nat) : Packet :=
  let b := tableByte nbits w
  match requestLength b with
  | some n => .request ((List.range n).map b)
  | none =>
    let bytes := (List.range (nbits / 8)).map b
    match wireToken bytes.reverse, wireToken bytes with
    | some _, _ => .wire bytes.reverse
    | none, some _ => .wire bytes
    | none, none => .request bytes

/-- The instruction the decoder reads from a table word, under the configuration `State.reset` has. -/
def decodeTableWord (nbits w : Nat) : Option Instr :=
  match decode Config.excat (tablePacket nbits w) with
  | .ok i => some i
  | .error _ => none

end Sys2Proof
end

