-- ==== Sys2Proof/Machine/WireTokens.lean ====
section
/-! DEFINITION. WireTokens.lean: the wire tokens of spec/30_encoding.md R91 and R92. A token is no request: its bytes reach CFD
only as data of an operation (R8, R91). The one operation that takes wire bytes into CFD's state is SYNC_PUSH (R63, R204), so
a token that arrives on its own is the agent's push of exactly its bytes (DEDUCED, notes/assumptions/3.md). What BUILD_CMD
emits and PARSE_CMD reads of a token is in CommandCodec.lean. -/
namespace Sys2Proof.Machine

/-- The marker pair: in INITIALIZED the marker is matched and `r` dispatched; in UNINITIALIZED it has no meaning (R91, R201,
R202). -/
def execWireMarkerPair (r : Byte) (s : State) : Host.Outcome State Fault Refusal :=
  operate s (pushBody s (encode (.wireMarkerPair r)))

/-- STREAM_START: an ordinary stream byte to the synchronizer (R91, R204). -/
def execWireStreamStart (s : State) : Host.Outcome State Fault Refusal := operate s (pushBody s (encode .wireStreamStart))

/-- INIT: matched in UNINITIALIZED (R91, R201), ordinary bytes in INITIALIZED (R206). -/
def execWireInit (s : State) : Host.Outcome State Fault Refusal := operate s (pushBody s (encode .wireInit))

/-- INIT_RESPONSE: no operation gives it a meaning of its own; an ordinary stream byte (R92). -/
def execWireInitResponse (s : State) : Host.Outcome State Fault Refusal := operate s (pushBody s (encode .wireInitResponse))

/-- STREAM_STOP: dispatched only when it follows a 0x5A, like any other command byte (R92). -/
def execWireStreamStop (s : State) : Host.Outcome State Fault Refusal := operate s (pushBody s (encode .wireStreamStop))

/-- STOP_ACK: no operation gives it a meaning of its own; an ordinary stream byte (R92). -/
def execWireStopAck (s : State) : Host.Outcome State Fault Refusal := operate s (pushBody s (encode .wireStopAck))

end Sys2Proof.Machine
end

