-- ==== Sys2Proof/Machine/Dispatch.lean ====
section
/-! DEFINITION. Dispatch.lean: the meaning of every instruction, one arm per row of spec/opcode_table.json. -/
namespace Sys2Proof.Machine

def exec (i : Instr) (s : State) : Host.Outcome State Fault Refusal :=
  match i with
  | .enable id v => Sys2Proof.Machine.execEnable id v s
  | .enumAll => Sys2Proof.Machine.execEnumAll s
  | .enumEnabled => Sys2Proof.Machine.execEnumEnabled s
  | .countEnabled => Sys2Proof.Machine.execCountEnabled s
  | .lookupId id => Sys2Proof.Machine.execLookupId id s
  | .lookupReg b => Sys2Proof.Machine.execLookupReg b s
  | .extract id frame => Sys2Proof.Machine.execExtract id frame s
  | .value id frame => Sys2Proof.Machine.execValue id frame s
  | .scan needle buffer => Sys2Proof.Machine.execScan needle buffer s
  | .buildCmd ids => Sys2Proof.Machine.execBuildCmd ids s
  | .parseCmd bytes => Sys2Proof.Machine.execParseCmd bytes s
  | .decodeFrame frame => Sys2Proof.Machine.execDecodeFrame frame s
  | .syncPush chunk => Sys2Proof.Machine.execSyncPush chunk s
  | .syncStatus => Sys2Proof.Machine.execSyncStatus s
  | .wireMarkerPair r => Sys2Proof.Machine.execWireMarkerPair r s
  | .wireStreamStart => Sys2Proof.Machine.execWireStreamStart s
  | .wireInit => Sys2Proof.Machine.execWireInit s
  | .wireInitResponse => Sys2Proof.Machine.execWireInitResponse s
  | .wireStreamStop => Sys2Proof.Machine.execWireStreamStop s
  | .wireStopAck => Sys2Proof.Machine.execWireStopAck s

end Sys2Proof.Machine
end

