-- ==== Sys2Proof/Machine/Port.lean ====
section
/-! DEFINITION. Port.lean: the command port (spec/30_encoding.md R80, R84, spec/60_exceptions.md R230): accepting an agent's
packet and answering it. -/
namespace Sys2Proof.Machine

/-- The packets an agent has still to put to CFD, in the order it issued them. -/
def State.waiting (s : State) : Agent → List Packet
  | .control => s.control
  | .worker => s.worker

/-- The agent's first packet is accepted: it leaves the agent's queue, the turn is used, the port serves that agent (R64,
R65). -/
def State.accept (s : State) (a : Agent) (rest : List Packet) (turns : List Turn) : State :=
  match a with
  | .control => { s with control := rest, turns := turns, serving := .control }
  | .worker => { s with worker := rest, turns := turns, serving := .worker }

/-- The error a refused request is answered with (R227, R228). -/
def rejectError : Reject → OpError
  | .illegalOperation opc => .illegalOperation opc
  | .malformedRequest => .malformedRequest

/-- An accepted packet is answered: the configuration fault before anything is decoded, then decoding, then the operation
(R230). -/
def serve (p : Packet) (s : State) : Host.Outcome State Fault Refusal :=
  match s.cfgStatus with
  | .configFault id => raise s (.duplicateRegisterMapping id)
  | .ready =>
    match decode s.config p with
    | .error r => raise s (rejectError r)
    | .ok i => exec i s

end Sys2Proof.Machine
end

