-- ==== Sys2Proof/Machine/Step.lean ====
section
/-! DEFINITION. Step.lean: one step of the machine: the next event at the command port. CFD has no program counter and runs no
stored program (spec/10_state.md R31): a step takes the next turn, which is an agent's request (spec/20_memory.md R64, R65)
or a reset (spec/70_reset_and_hazards.md R250). -/
namespace Sys2Proof.Machine

/-- One step. A configuration that is not a CFD's has no machine (R13). With no turn left CFD waits, its state unchanged
(R243, R253); a turn of an agent that has nothing to send passes. -/
def step (s : State) : Host.Outcome State Fault Refusal :=
  if configWf s.config then
    match s.turns with
    | [] => .next s
    | .reset :: turns => .next (State.afterReset { s with turns := turns })
    | .agent a :: turns =>
      match s.waiting a with
      | [] => .next { s with turns := turns }
      | p :: rest => serve p (s.accept a rest turns)
  else .refused .illFormedConfiguration

/-- The packet of an opcode-table word put where the next step takes it: first of the control agent's packets, with the first
turn the control agent's. It stands for an agent's sending it (notes/assumptions/4.md). -/
def State.withFetchWord (s : State) (nbits w : Nat) : State :=
  { s with control := tablePacket nbits w :: s.control, turns := .agent .control :: s.turns }

end Sys2Proof.Machine
end

