-- ==== Sys2Proof/Safety.lean ====
section
/-! DEFINITION. Safety.lean: the terms the statements are made in: the invariant of a CFD, sequences of operations, and the
number a binary64 pattern stands for. -/
namespace Sys2Proof

open Sys2Proof.Machine

/-- One catalog entry is well formed: R104 (c) to (g), condition by condition; (b) and (e) hold by the type. -/
structure EntryIsWellFormed (e : Entry) : Prop where
  /-- R104 (c). -/
  bitIndex : ∀ reg bit : Byte, e.variant = .bit reg bit → bit.toNat ≤ 7
  /-- R104 (d). -/
  distinct : ∀ msb lsb : Byte, e.variant = .dual msb lsb → msb ≠ lsb
  /-- R104 (f). -/
  finiteScale : f64IsFinite e.scale = true
  /-- R104 (f). -/
  finiteOffset : f64IsFinite e.offset = true
  /-- R104 (f), Single. -/
  finiteSingle : ∀ reg : Byte, e.variant = .single reg → ∀ raw : Nat, raw ≤ 255 → f64IsFinite (scaleValue e raw) = true
  /-- R104 (f), Dual. -/
  finiteDual : ∀ msb lsb : Byte, e.variant = .dual msb lsb → ∀ raw : Nat, raw ≤ 65535 → f64IsFinite (scaleValue e raw) = true
  /-- R104 (f), Bit. -/
  finiteBit : ∀ reg bit : Byte, e.variant = .bit reg bit → ∀ raw : Nat, raw ≤ 1 → f64IsFinite (scaleValue e raw) = true
  /-- R104 (g). -/
  nameLength : e.name.length ≤ 255
  /-- R104 (g). -/
  unitLength : e.unit.length ≤ 255

/-- A configuration is a CFD's (R13): the bounds of R11, WF_CAT of R104, and the constraint R11 takes from R110
(notes/assumptions/9.md, and 10.md for the bytes of the two names), condition by condition. -/
structure IsCfd (c : Config) : Prop where
  atLeastOneEntry : 1 ≤ c.cat.length
  atMost255Entries : c.cat.length ≤ 255
  listMaxLow : 511 ≤ c.listMax
  listMaxHigh : c.listMax ≤ 32767
  needleMaxLow : 3 ≤ c.needleMax
  needleMaxHigh : c.needleMax ≤ 255
  syncBufCapLow : c.listMax + 2 ≤ c.syncBufCap
  syncBufCapHigh : c.syncBufCap ≤ 65535
  entries : ∀ e ∈ c.cat, EntryIsWellFormed e
  mafRegistersDistinct : ∀ e ∈ c.cat, ∀ g ∈ c.cat, e.name = nameMafVoltage → g.name = nameMafVoltageRh →
    ∀ r ∈ regs e, r ∉ regs g

/-- What holds of a CFD in every state it can be in: its configuration is one (R11, R104, R110); EN has one bit for each entry
(R32); CFG_STATUS is what CHECK_CAT found (R35, R252); SYNC_BUF is within its capacity (R34) and, in UNINITIALIZED, is one of
`[]`, `[0xFF]`, `[0xFF, 0xFF]` (R201). -/
structure Inv (s : State) : Prop where
  config : configWf s.config = true
  enLength : s.en.length = s.config.cat.length
  status : s.cfgStatus = checkCat s.config
  bufBound : s.syncBuf.length ≤ s.config.syncBufCap
  uninitialized : s.syncState = .uninitialized → s.syncBuf ∈ [[], [0xFF#8], [0xFF#8, 0xFF#8]]

/-- The architectural state of R263: EN, SYNC_STATE, SYNC_BUF, CFG_STATUS, under one configuration. -/
def SameCfd (s t : State) : Prop :=
  t.config = s.config ∧ t.en = s.en ∧ t.syncState = s.syncState ∧ t.syncBuf = s.syncBuf ∧ t.cfgStatus = s.cfgStatus

/-- A sequence of operations, each run in the state the one before it left (R64). -/
def execAll : List Instr → State → Host.Outcome State Fault Refusal
  | [], s => .next s
  | i :: is, s =>
    match exec i s with
    | .next t => execAll is t
    | .fault r => .fault r
    | .refused r => .refused r

/-- What an answered request of a state `s` does (R80, R222): it adds one response, with a status of at most 7; and if that is
an error, everything else is as it was, and the next request, whatever its bytes, is answered and leaves the state as if the
failed one had never been sent. -/
def LeavesNothingBehind (s t : State) : Prop :=
  ∃ (status : Byte) (more : Bytes), status.toNat ≤ 7 ∧
    t.responses = s.responses ++ [⟨s.serving, status :: more⟩] ∧
    (status ≠ 0x00#8 →
      t = { s with responses := s.responses ++ [⟨s.serving, status :: more⟩] } ∧
      ∀ p : Packet, ∃ (u : State) (bytes : Bytes), serve p s = .next u ∧
        u.responses = s.responses ++ [⟨s.serving, bytes⟩] ∧
        serve p t = .next { u with responses := t.responses ++ [⟨s.serving, bytes⟩] })

/-- A safe run: from `s`, however many steps, the machine neither faults nor refuses. -/
def SafeRun (s : State) : Prop := ∀ k : Nat, ∃ t : State, Host.Core.run core k s = .next t

/-- `whole` holds `needle` as a contiguous sub-sequence, the first one right after `before`, with `after` behind it (R141). -/
def FirstOccurrence (needle whole before after : Bytes) : Prop :=
  whole = before ++ needle ++ after ∧
    ∀ before' after' : Bytes, whole = before' ++ needle ++ after' → before.length ≤ before'.length

/-- `needle` does not occur in `whole` (R142, R143). -/
def NoOccurrence (needle whole : Bytes) : Prop := ∀ before after : Bytes, whole ≠ before ++ needle ++ after

/-- `suffix` is a suffix of `whole` and a proper prefix of `needle` (R142). -/
def PartialMatch (needle whole suffix : Bytes) : Prop :=
  suffix <:+ whole ∧ suffix <+: needle ∧ suffix.length < needle.length

/-- The rational a finite binary64 pattern stands for (R89); 0 for a pattern that is not finite. -/
def f64Value (x : F64) : ℚ :=
  match f64Class x with
  | .finite neg m e => (if neg then -1 else 1) * (m : ℚ) * (2 : ℚ) ^ e
  | .infinite _ => 0
  | .nan => 0

/-- `r` is `x` rounded to binary64, to nearest, ties to even (R19): below the overflow threshold `r` is finite, no finite
value is nearer to `x`, and of two equally near ones `r` has the even significand; at or above it `r` is not finite. -/
def RoundsTo (x : ℚ) (r : F64) : Prop :=
  (|x| < 2 ^ 1024 - 2 ^ 970 →
    f64IsFinite r = true ∧
    ∀ z : F64, f64IsFinite z = true →
      |f64Value r - x| ≤ |f64Value z - x| ∧
      (|f64Value r - x| = |f64Value z - x| → f64Value z = f64Value r ∨ r.toNat % 2 = 0)) ∧
  ((2 : ℚ) ^ 1024 - 2 ^ 970 ≤ |x| → f64IsFinite r = false)

end Sys2Proof
end

