-- ==== Sys2Proof/Certificates/Slice0/Obligations.lean ====
section
/-! DEFINITION. Obligations.lean: the statements for the provers. They follow the numbered rules of spec/ file by file. No
statement rests on a value the model chose: the configuration is universally quantified, since it is a field of the state
(notes/assumptions/1.md). -/

open Sys2Proof Sys2Proof.Machine

/-! ## Reset, configuration and the catalog check -/

/-- R251: reset sets every state element, whatever it held, and leaves the configuration as it is. That it also leaves the
agents' queues, the served agent and the response log as they are is the model's choice (DESIGN CHOICE, notes/assumptions/2.md
and 7.md): they are the model's own fields. -/
def Obligations.ResetSetsEveryElement : Prop :=
  ∀ (s : State) (turns : List Turn), configWf s.config = true → s.turns = .reset :: turns →
    step s = .next { s with
      turns := turns
      en := List.replicate s.config.cat.length false
      syncState := .uninitialized
      syncBuf := []
      cfgStatus := checkCat s.config }

/-- R106: CHECK_CAT, run at reset, is READY exactly when no two entries have equal keys, and otherwise names the smallest `j`
whose key equals the key of some earlier entry. -/
def Obligations.CatalogCheckNamesFirstDuplicate : Prop :=
  ∀ c : Config, c.cat.length ≤ 255 →
    (State.resetOf c).cfgStatus = checkCat c ∧
    (checkCat c = .ready ↔
      ∀ (i j : Nat) (a b : Entry), i < j → c.cat[i]? = some a → c.cat[j]? = some b → key a ≠ key b) ∧
    ∀ j : Nat, j < c.cat.length →
      (checkCat c = .configFault (BitVec.ofNat 8 j) ↔
        (∃ (i : Nat) (a b : Entry), i < j ∧ c.cat[i]? = some a ∧ c.cat[j]? = some b ∧ key a = key b) ∧
        ∀ (i k : Nat) (a b : Entry), i < k → k < j → c.cat[i]? = some a → c.cat[k]? = some b → key a ≠ key b)

/-- R102, R103, R105: the registers tuple, the canonical register and the key of each variant. -/
def Obligations.RegistersCanonicalAndKey : Prop :=
  ∀ (scale offset : F64) (name unit : Bytes) (r m l b : Byte),
    (regs ⟨.single r, scale, offset, name, unit⟩ = [r] ∧ canon ⟨.single r, scale, offset, name, unit⟩ = r ∧
      key ⟨.single r, scale, offset, name, unit⟩ = ([r], none)) ∧
    (regs ⟨.dual m l, scale, offset, name, unit⟩ = [m, l] ∧ canon ⟨.dual m l, scale, offset, name, unit⟩ = l ∧
      key ⟨.dual m l, scale, offset, name, unit⟩ = ([m, l], none)) ∧
    (regs ⟨.bit r b, scale, offset, name, unit⟩ = [r] ∧ canon ⟨.bit r b, scale, offset, name, unit⟩ = r ∧
      key ⟨.bit r b, scale, offset, name, unit⟩ = ([r], some b))

/-- R13: a configuration that breaks R11, R104 or the constraint of R110 (taken into R11: notes/assumptions/9.md; the bytes of
the MAF names: 10.md), each written out in `IsCfd`, has no machine: every step of it is refused. Every other configuration has one. The model's check
`configWf`, a premise of other statements, is exactly that. -/
def Obligations.IllFormedConfigurationIsRefused : Prop :=
  ∀ s : State,
    (configWf s.config = true ↔ IsCfd s.config) ∧
    (¬ IsCfd s.config → step s = .refused .illFormedConfiguration) ∧
    (IsCfd s.config → ∃ t : State, step s = .next t)

/-- R104 (f) for every raw value: the model's check looks at the largest raw value only (notes/assumptions/6.md), and this
says that nothing is lost by it. -/
def Obligations.EndpointCheckCoversEveryRawValue : Prop :=
  ∀ e : Entry, entryWf e = true →
    f64IsFinite e.scale = true ∧ f64IsFinite e.offset = true ∧
    ∀ raw : Nat, raw ≤ maxRaw e → f64IsFinite (scaleValue e raw) = true

/-- R88, the layout "a catalog entry in configuration" has: reading the descriptor bytes of an entry of R104 gives the entry
back. -/
def Obligations.DescriptorReadsBack : Prop :=
  ∀ e : Entry, variantWf e.variant = true → e.name.length ≤ 255 → e.unit.length ≤ 255 → readDesc (desc e) = some e

/-! ## Encoding and decoding -/

/-- Words written out from the layouts of R81, R83 and R91, at least one of every packet format (F-N, F-I, F-B, F-IV, F-L, F-IL,
F-NL), decode to the instructions they stand for. The last two clauses rest on the model's choice that wire bytes have a
packet of their own (notes/assumptions/3.md). -/
def Obligations.WrittenWordsDecode : Prop :=
  ∀ c : Config, 2 ≤ c.listMax → 3 ≤ c.needleMax →
    decode c (.request [0x01#8, 0x03#8, 0x01#8]) = .ok (.enable 3#8 true) ∧
    decode c (.request [0x03#8]) = .ok .enumEnabled ∧
    decode c (.request [0x05#8, 0x13#8]) = .ok (.lookupId 0x13#8) ∧
    decode c (.request [0x06#8, 0x13#8]) = .ok (.lookupReg 0x13#8) ∧
    decode c (.request [0x10#8, 0x00#8, 0x00#8, 0x02#8, 0x01#8, 0xF4#8]) = .ok (.extract 0#8 [0x01#8, 0xF4#8]) ∧
    decode c (.request [0x20#8, 0x03#8, 0xFF#8, 0xFF#8, 0xEF#8, 0x00#8, 0x02#8, 0x12#8, 0xFF#8])
      = .ok (.scan [0xFF#8, 0xFF#8, 0xEF#8] [0x12#8, 0xFF#8]) ∧
    decode c (.request [0x31#8, 0x00#8, 0x02#8, 0x5A#8, 0x01#8]) = .ok (.parseCmd [0x5A#8, 0x01#8]) ∧
    decode c (.request [0x40#8, 0x00#8, 0x00#8]) = .ok (.decodeFrame []) ∧
    decode c (.request [0x51#8]) = .ok .syncStatus ∧
    decode c (.wire [0x5A#8, 0x13#8]) = .ok (.wireMarkerPair 0x13#8) ∧
    decode c (.wire [0xFF#8, 0xFF#8, 0xEF#8]) = .ok .wireInit

/-- Decode and encode agree: every instruction a configuration can carry, at every operand value, comes back from its
packet, the requests of R83 and the wire tokens of R91 and R92 alike. -/
def Obligations.DecodeOfEncodeIsIdentity : Prop :=
  ∀ (c : Config) (i : Instr), configWf c = true → i.wf c = true → decode c i.packet = .ok i

/-- R84: a request is an instruction exactly when its bytes are that instruction's encoding: one meaning for each word, exact
lengths, reserved operand values refused. -/
def Obligations.RequestDecodingIsExact : Prop :=
  ∀ (c : Config) (bytes : Bytes) (i : Instr), configWf c = true →
    (decode c (.request bytes) = .ok i ↔ i.isWire = false ∧ i.wf c = true ∧ encode i = bytes)

/-- R85: the opcodes that R83 does not assign, as R85 lists them, and only those, are illegal operations. -/
def Obligations.UnassignedOpcodesAreIllegal : Prop :=
  ∀ (c : Config) (opc : Byte) (rest : Bytes),
    decode c (.request (opc :: rest)) = .error (.illegalOperation opc) ↔
      opc = 0x00#8 ∨ (0x07#8 ≤ opc ∧ opc ≤ 0x0F#8) ∨ (0x12#8 ≤ opc ∧ opc ≤ 0x1F#8) ∨ (0x21#8 ≤ opc ∧ opc ≤ 0x2F#8) ∨
      (0x32#8 ≤ opc ∧ opc ≤ 0x3F#8) ∨ (0x41#8 ≤ opc ∧ opc ≤ 0x4F#8) ∨ 0x52#8 ≤ opc

/-- R84, R86, R228: a request is MalformedRequest exactly when it is empty, or has an assigned opcode, and its bytes are no
instruction's encoding: so are a short packet and one with trailing bytes. In particular V other than 0 or 1, NLEN of 0 or
above NEEDLE_MAX, and LEN above LIST_MAX in each of the formats F-L, F-IL and F-NL are MalformedRequest, whatever follows; an
identifier is no format error. -/
def Obligations.ReservedOperandValuesAreMalformed : Prop :=
  (∀ (c : Config) (bytes : Bytes), configWf c = true →
    (decode c (.request bytes) = .error .malformedRequest ↔
      (∀ (opc : Byte) (rest : Bytes), bytes = opc :: rest →
        opc ∈ [0x01#8, 0x02#8, 0x03#8, 0x04#8, 0x05#8, 0x06#8, 0x10#8, 0x11#8, 0x20#8, 0x30#8, 0x31#8, 0x40#8, 0x50#8, 0x51#8]) ∧
      ∀ i : Instr, i.isWire = false → i.wf c = true → encode i ≠ bytes)) ∧
  ∀ (c : Config) (id v nlen hi lo : Byte) (needle rest : Bytes),
    decode c (.request []) = .error .malformedRequest ∧
    (v ≠ 0#8 → v ≠ 1#8 → decode c (.request [0x01#8, id, v]) = .error .malformedRequest) ∧
    (nlen = 0#8 ∨ c.needleMax < nlen.toNat → decode c (.request (0x20#8 :: nlen :: rest)) = .error .malformedRequest) ∧
    (c.listMax < hi.toNat * 256 + lo.toNat →
      (∀ opc ∈ [0x30#8, 0x31#8, 0x40#8, 0x50#8], decode c (.request (opc :: hi :: lo :: rest)) = .error .malformedRequest) ∧
      (∀ opc ∈ [0x10#8, 0x11#8], decode c (.request (opc :: id :: hi :: lo :: rest)) = .error .malformedRequest) ∧
      (nlen.toNat = needle.length →
        decode c (.request (0x20#8 :: nlen :: (needle ++ hi :: lo :: rest))) = .error .malformedRequest)) ∧
    decode c (.request [0x05#8, id]) = .ok (.lookupId id)

/-- R16, R67: BE16 and BE64 put the most significant byte first. -/
def Obligations.PacketFieldsAreBigEndian : Prop :=
  (∀ (n : Nat) (hi lo : Byte), n < 65536 → (be16 n = [hi, lo] ↔ hi.toNat * 256 + lo.toNat = n)) ∧
  (∀ (v : F64) (a b c d e f g h : Byte),
    be64 v = [a, b, c, d, e, f, g, h] ↔
      ((((((a.toNat * 256 + b.toNat) * 256 + c.toNat) * 256 + d.toNat) * 256 + e.toNat) * 256 + f.toNat) * 256
        + g.toNat) * 256 + h.toNat = v.toNat)

/-! ## The command port -/

/-- R64, R80: a step runs the decoded instruction. When the next turn is an agent's and the agent's first packet decodes to
`i`, the step is `exec i` in the state in which that packet is taken, that turn is used and the port serves that agent. -/
def Obligations.StepRunsDecodedInstruction : Prop :=
  ∀ (s : State) (p : Packet) (rest : List Packet) (turns : List Turn) (i : Instr),
    configWf s.config = true → s.cfgStatus = .ready → decode s.config p = .ok i →
    (s.turns = .agent .control :: turns → s.control = p :: rest →
      step s = exec i { s with control := rest, turns := turns, serving := .control }) ∧
    (s.turns = .agent .worker :: turns → s.worker = p :: rest →
      step s = exec i { s with worker := rest, turns := turns, serving := .worker })

/-- R227, R228: a packet that does not decode is answered `[0x05, opc]` or `[0x06]`, to the agent that sent it, and nothing
else changes. -/
def Obligations.RejectedPacketsAreAnswered : Prop :=
  ∀ (s : State) (p : Packet) (rest : List Packet) (turns : List Turn) (answer : Bytes), configWf s.config = true →
    s.cfgStatus = .ready →
    (∃ opc : Byte, decode s.config p = .error (.illegalOperation opc) ∧ answer = [0x05#8, opc]) ∨
      (decode s.config p = .error .malformedRequest ∧ answer = [0x06#8]) →
    (s.turns = .agent .control :: turns → s.control = p :: rest →
      step s = .next { s with control := rest, turns := turns, serving := .control,
                              responses := s.responses ++ [⟨.control, answer⟩] }) ∧
    (s.turns = .agent .worker :: turns → s.worker = p :: rest →
      step s = .next { s with worker := rest, turns := turns, serving := .worker,
                              responses := s.responses ++ [⟨.worker, answer⟩] })

/-- R226: in the configuration fault every packet of either agent, whatever its bytes, is answered `[0x04, id]` and has no
other effect; so is every instruction; and no step leaves the fault, a reset included. -/
def Obligations.ConfigurationFaultAnswersEverything : Prop :=
  ∀ (s : State) (id : Byte), s.cfgStatus = .configFault id →
    (∀ i : Instr, exec i s = .next { s with responses := s.responses ++ [⟨s.serving, [0x04#8, id]⟩] }) ∧
    (∀ (p : Packet) (rest : List Packet) (turns : List Turn), configWf s.config = true →
      (s.turns = .agent .control :: turns → s.control = p :: rest →
        step s = .next { s with control := rest, turns := turns, serving := .control,
                                responses := s.responses ++ [⟨.control, [0x04#8, id]⟩] }) ∧
      (s.turns = .agent .worker :: turns → s.worker = p :: rest →
        step s = .next { s with worker := rest, turns := turns, serving := .worker,
                                responses := s.responses ++ [⟨.worker, [0x04#8, id]⟩] })) ∧
    (Inv s → ∀ t : State, step s = .next t → t.cfgStatus = .configFault id)

/-- R80, R65: a step that accepts a packet gives exactly one response, to the agent that sent it, takes that packet and no
other, and leaves the configuration and CFG_STATUS as they were. -/
def Obligations.EveryRequestIsAnsweredOnce : Prop :=
  ∀ (s : State) (p : Packet) (rest : List Packet) (turns : List Turn), configWf s.config = true →
    (s.turns = .agent .control :: turns → s.control = p :: rest →
      ∃ (t : State) (status : Byte) (more : Bytes), step s = .next t ∧ t.control = rest ∧ t.worker = s.worker ∧ t.turns = turns ∧
        t.responses = s.responses ++ [⟨.control, status :: more⟩] ∧ status.toNat ≤ 7 ∧
        t.config = s.config ∧ t.cfgStatus = s.cfgStatus) ∧
    (s.turns = .agent .worker :: turns → s.worker = p :: rest →
      ∃ (t : State) (status : Byte) (more : Bytes), step s = .next t ∧ t.worker = rest ∧ t.control = s.control ∧ t.turns = turns ∧
        t.responses = s.responses ++ [⟨.worker, status :: more⟩] ∧ status.toNat ≤ 7 ∧
        t.config = s.config ∧ t.cfgStatus = s.cfgStatus)

/-- R236: the agent makes no difference: the same packet, put by either agent, leaves the same architectural state and gets
the same response bytes. -/
def Obligations.AgentMakesNoDifference : Prop :=
  ∀ (s : State) (p : Packet), configWf s.config = true →
    ∃ (t u : State) (bytes : Bytes),
      step { s with turns := [.agent .control], control := [p] } = .next t ∧
      step { s with turns := [.agent .worker], worker := [p] } = .next u ∧
      SameCfd t u ∧
      t.responses = s.responses ++ [⟨.control, bytes⟩] ∧ u.responses = s.responses ++ [⟨.worker, bytes⟩]

/-- R244 (c), (d), (e): no run of a CFD stops, whatever its agents put to it and whenever reset is asserted. -/
def Obligations.EveryRunOfACfdGoesOn : Prop :=
  ∀ s : State, configWf s.config = true → SafeRun s

/-! ## The catalog family -/

/-- R112: ENABLE writes exactly the bit of its identifier and answers OK, and done twice leaves what once leaves; an identifier
of `N` or more is UnknownParameterIdentifier and writes nothing; a V that is neither 0 nor 1 is MalformedRequest. -/
def Obligations.EnableWritesItsBit : Prop :=
  ∀ (c : Config) (s : State) (id : Byte) (v : Bool),
    decode c (.request [0x01#8, id, 0x00#8]) = .ok (.enable id false) ∧
    decode c (.request [0x01#8, id, 0x01#8]) = .ok (.enable id true) ∧
    (∀ x : Byte, x ≠ 0x00#8 → x ≠ 0x01#8 → decode c (.request [0x01#8, id, x]) = .error .malformedRequest) ∧
    (s.cfgStatus = .ready → id.toNat < s.config.cat.length →
      exec (.enable id v) s = .next { s with
        en := s.en.set id.toNat v, responses := s.responses ++ [⟨s.serving, [0x00#8]⟩] } ∧
      execAll [.enable id v, .enable id v] s = .next { s with
        en := s.en.set id.toNat v, responses := s.responses ++ [⟨s.serving, [0x00#8]⟩] ++ [⟨s.serving, [0x00#8]⟩] }) ∧
    (s.cfgStatus = .ready → s.config.cat.length ≤ id.toNat →
      exec (.enable id v) s = .next { s with responses := s.responses ++ [⟨s.serving, [0x01#8, id]⟩] })

/-- R113: ENUM_ALL answers the count and every identifier in catalog order; nothing but the response changes. -/
def Obligations.EnumAllListsTheCatalog : Prop :=
  ∀ (c : Config) (s : State),
    decode c (.request [0x02#8]) = .ok .enumAll ∧
    (s.cfgStatus = .ready →
      exec .enumAll s = .next (s.answer (0x00#8 :: BitVec.ofNat 8 s.config.cat.length ::
        (List.range s.config.cat.length).map (BitVec.ofNat 8))))

/-- R114, R115: with one bit of EN for each entry, ENUM_ENABLED answers the number of set bits and the positions of the set
bits, ascending, and COUNT_ENABLED answers the number of set bits; nothing but the response changes. -/
def Obligations.EnabledParametersAreListedAndCounted : Prop :=
  ∀ (c : Config) (s : State),
    decode c (.request [0x03#8]) = .ok .enumEnabled ∧
    decode c (.request [0x04#8]) = .ok .countEnabled ∧
    (s.cfgStatus = .ready → s.en.length = s.config.cat.length →
      exec .enumEnabled s = .next (s.answer (0x00#8 :: BitVec.ofNat 8 (s.en.count true) ::
        ((List.range s.en.length).filter fun i => s.en[i]? == some true).map (BitVec.ofNat 8))) ∧
      exec .countEnabled s = .next (s.answer [0x00#8, BitVec.ofNat 8 (s.en.count true)]))

/-- R118, the count law: COUNT_ENABLED's K is ENUM_ENABLED's count byte, and that many identifiers follow it. -/
def Obligations.CountLaw : Prop :=
  ∀ s : State, s.cfgStatus = .ready → s.config.cat.length ≤ 255 →
    ∃ (k : Byte) (ids : Bytes),
      exec .countEnabled s = .next (s.answer [0x00#8, k]) ∧
      exec .enumEnabled s = .next (s.answer (0x00#8 :: k :: ids)) ∧
      ids.length = k.toNat

/-- R116, R88: LOOKUP_ID answers the descriptor of its entry, field by field; an identifier of `N` or more is
UnknownParameterIdentifier; nothing but the response changes. -/
def Obligations.LookupIdAnswersDescriptor : Prop :=
  ∀ (c : Config) (s : State) (id : Byte) (scale offset : F64) (name unit : Bytes) (r m l b : Byte),
    decode c (.request [0x05#8, id]) = .ok (.lookupId id) ∧
    (s.cfgStatus = .ready →
      (s.config.cat[id.toNat]? = some ⟨.single r, scale, offset, name, unit⟩ →
        exec (.lookupId id) s = .next (s.answer ([0x00#8, 0#8, r, 0#8, 0#8] ++ be64 scale ++ be64 offset
          ++ [BitVec.ofNat 8 name.length] ++ name ++ [BitVec.ofNat 8 unit.length] ++ unit))) ∧
      (s.config.cat[id.toNat]? = some ⟨.dual m l, scale, offset, name, unit⟩ →
        exec (.lookupId id) s = .next (s.answer ([0x00#8, 1#8, m, l, 0#8] ++ be64 scale ++ be64 offset
          ++ [BitVec.ofNat 8 name.length] ++ name ++ [BitVec.ofNat 8 unit.length] ++ unit))) ∧
      (s.config.cat[id.toNat]? = some ⟨.bit r b, scale, offset, name, unit⟩ →
        exec (.lookupId id) s = .next (s.answer ([0x00#8, 2#8, r, 0#8, b] ++ be64 scale ++ be64 offset
          ++ [BitVec.ofNat 8 name.length] ++ name ++ [BitVec.ofNat 8 unit.length] ++ unit))) ∧
      (s.config.cat.length ≤ id.toNat → exec (.lookupId id) s = .next (s.answer [0x01#8, id])))

/-- R111, R117: LOOKUP_REG answers PRESENT with the first (or, under LAST, the last) identifier whose canonical register is the
byte, and `[0, 0]` when there is none; nothing but the response changes. -/
def Obligations.LookupRegAnswersReverseMap : Prop :=
  ∀ (c : Config) (s : State) (b : Byte),
    decode c (.request [0x06#8, b]) = .ok (.lookupReg b) ∧
    (s.cfgStatus = .ready →
      ((∀ e ∈ s.config.cat, canon e ≠ b) → exec (.lookupReg b) s = .next (s.answer [0x00#8, 0x00#8, 0x00#8])) ∧
      (∀ (i : Nat) (e : Entry), s.config.cat[i]? = some e → canon e = b →
        (s.config.revmapRule = .first →
          (∀ (j : Nat) (f : Entry), j < i → s.config.cat[j]? = some f → canon f ≠ b) →
          exec (.lookupReg b) s = .next (s.answer [0x00#8, 0x01#8, BitVec.ofNat 8 i])) ∧
        (s.config.revmapRule = .last →
          (∀ (j : Nat) (f : Entry), i < j → s.config.cat[j]? = some f → canon f ≠ b) →
          exec (.lookupReg b) s = .next (s.answer [0x00#8, 0x01#8, BitVec.ofNat 8 i]))))

/-- R119, the canonical-addressing law: the LSB of a Dual finds it when no other entry shares that canonical byte; its MSB
finds nothing or another entry, never the Dual itself. -/
def Obligations.CanonicalAddressingLaw : Prop :=
  ∀ (s : State) (i : Nat) (m l : Byte) (scale offset : F64) (name unit : Bytes),
    configWf s.config = true → s.cfgStatus = .ready →
    s.config.cat[i]? = some ⟨.dual m l, scale, offset, name, unit⟩ →
    ((∀ (j : Nat) (e : Entry), s.config.cat[j]? = some e → canon e = l → j = i) →
      exec (.lookupReg l) s = .next (s.answer [0x00#8, 0x01#8, BitVec.ofNat 8 i])) ∧
    (exec (.lookupReg m) s = .next (s.answer [0x00#8, 0x00#8, 0x00#8]) ∨
      ∃ (j : Nat) (e : Entry), j ≠ i ∧ s.config.cat[j]? = some e ∧ canon e = m ∧ BitVec.ofNat 8 j ≠ BitVec.ofNat 8 i ∧
        exec (.lookupReg m) s = .next (s.answer [0x00#8, 0x01#8, BitVec.ofNat 8 j]))

/-! ## The parameter model -/

/-- R121 to R123, R66: EXTRACT answers the byte of a Single, the big-endian pair of a Dual, the bit of a Bit (bit 0 least
significant); nothing but the response changes. -/
def Obligations.ExtractAnswersRawValue : Prop :=
  ∀ (s : State) (id : Byte) (frame : Bytes) (e : Entry), s.cfgStatus = .ready → s.config.cat[id.toNat]? = some e →
    (∀ r x : Byte, e.variant = .single r → frame[r.toNat]? = some x →
      exec (.extract id frame) s = .next (s.answer [0x00#8, 0x00#8, x])) ∧
    (∀ m l hi lo : Byte, e.variant = .dual m l → frame[m.toNat]? = some hi → frame[l.toNat]? = some lo →
      exec (.extract id frame) s = .next (s.answer [0x00#8, hi, lo])) ∧
    (∀ r b x : Byte, e.variant = .bit r b → frame[r.toNat]? = some x →
      exec (.extract id frame) s = .next (s.answer [0x00#8, 0x00#8, if x.getLsbD b.toNat then 1#8 else 0#8]))

/-- R124, R128: VALUE answers `f64_add(f64_mul(f64(raw), scale), offset)` of the same raw value; nothing but the response
changes. -/
def Obligations.ValueAnswersScaledValue : Prop :=
  ∀ (s : State) (id : Byte) (frame : Bytes) (e : Entry), s.cfgStatus = .ready → s.config.cat[id.toNat]? = some e →
    (∀ r x : Byte, e.variant = .single r → frame[r.toNat]? = some x →
      exec (.value id frame) s
        = .next (s.answer (0x00#8 :: be64 (f64Add (f64Mul (f64OfNat x.toNat) e.scale) e.offset)))) ∧
    (∀ m l hi lo : Byte, e.variant = .dual m l → frame[m.toNat]? = some hi → frame[l.toNat]? = some lo →
      exec (.value id frame) s
        = .next (s.answer (0x00#8 :: be64 (f64Add (f64Mul (f64OfNat (hi.toNat * 256 + lo.toNat)) e.scale) e.offset)))) ∧
    (∀ r b x : Byte, e.variant = .bit r b → frame[r.toNat]? = some x →
      exec (.value id frame) s
        = .next (s.answer (0x00#8 ::
            be64 (f64Add (f64Mul (f64OfNat (if x.getLsbD b.toNat then 1 else 0)) e.scale) e.offset))))

/-- R120, R122, R223, R225: an unknown identifier is named before the frame is looked at; a register at or past the frame's
end is FrameTooShort `[id, reg]`, the MSB of a Dual before its LSB; EXTRACT and VALUE alike, and nothing else changes. -/
def Obligations.FrameReadsAreBoundsChecked : Prop :=
  ∀ (s : State) (id : Byte) (frame : Bytes) (i : Instr), s.cfgStatus = .ready →
    i = .extract id frame ∨ i = .value id frame →
    (s.config.cat.length ≤ id.toNat → exec i s = .next (s.answer [0x01#8, id])) ∧
    (∀ e : Entry, s.config.cat[id.toNat]? = some e →
      (∀ r : Byte, e.variant = .single r → frame.length ≤ r.toNat → exec i s = .next (s.answer [0x03#8, id, r])) ∧
      (∀ r b : Byte, e.variant = .bit r b → frame.length ≤ r.toNat → exec i s = .next (s.answer [0x03#8, id, r])) ∧
      (∀ m l : Byte, e.variant = .dual m l → frame.length ≤ m.toNat → exec i s = .next (s.answer [0x03#8, id, m])) ∧
      (∀ m l : Byte, e.variant = .dual m l → m.toNat < frame.length → frame.length ≤ l.toNat →
        exec i s = .next (s.answer [0x03#8, id, l])))

/-- R129, R260: EXTRACT, VALUE and BUILD_CMD do not read EN, and PARSE_CMD does not either: in two states that differ in EN
alone they give the same response. -/
def Obligations.EnableBitsDoNotReachThem : Prop :=
  ∀ (s : State) (en : List Bool) (i : Instr),
    (∃ id frame, i = .extract id frame) ∨ (∃ id frame, i = .value id frame) ∨ (∃ ids, i = .buildCmd ids) ∨
      (∃ bytes, i = .parseCmd bytes) →
    ∃ bytes : Bytes, exec i s = .next (s.answer bytes) ∧
      exec i { s with en := en } = .next (State.answer { s with en := en } bytes)

/-- R19: multiplication is the exact product rounded once, to nearest, ties to even, with the sign of the product. -/
def Obligations.MultiplicationRoundsToNearestEven : Prop :=
  ∀ a b : F64, f64IsFinite a = true → f64IsFinite b = true →
    RoundsTo (f64Value a * f64Value b) (f64Mul a b) ∧ f64Neg (f64Mul a b) = (f64Neg a != f64Neg b)

/-- R19: addition is the exact sum rounded once, to nearest, ties to even; a zero sum is negative only if both operands
are. -/
def Obligations.AdditionRoundsToNearestEven : Prop :=
  ∀ a b : F64, f64IsFinite a = true → f64IsFinite b = true →
    RoundsTo (f64Value a + f64Value b) (f64Add a b) ∧
    (f64Value a + f64Value b = 0 → f64Neg (f64Add a b) = (f64Neg a && f64Neg b)) ∧
    (f64Value a + f64Value b ≠ 0 → f64Neg (f64Add a b) = decide (f64Value a + f64Value b < 0))

/-- R19, R126 (a): the conversion of a natural below 2^53 is exact. -/
def Obligations.NaturalConversionIsExact : Prop :=
  ∀ n : Nat, n < 2 ^ 53 → f64IsFinite (f64OfNat n) = true ∧ f64Value (f64OfNat n) = (n : ℚ) ∧ f64Neg (f64OfNat n) = false

/-- R126 (c): with scale 1.0 and offset 0.0 the value is exactly `f64(raw)`, for every raw value. -/
def Obligations.IdentityScalingIsExact : Prop :=
  ∀ (e : Entry) (raw : Nat), e.scale = 0x3FF0000000000000#64 → e.offset = 0x0000000000000000#64 → raw < 65536 →
    scaleValue e raw = f64OfNat raw

/-- R126 (d): where the product and the sum are representable, the scaled value is exact. -/
def Obligations.RepresentableScalingIsExact : Prop :=
  ∀ (e : Entry) (raw : Nat) (p z : F64), raw < 65536 → f64IsFinite e.scale = true → f64IsFinite e.offset = true →
    f64IsFinite p = true → f64IsFinite z = true →
    f64Value p = (raw : ℚ) * f64Value e.scale → f64Value z = f64Value p + f64Value e.offset →
    f64IsFinite (scaleValue e raw) = true ∧
    f64Value (scaleValue e raw) = (raw : ℚ) * f64Value e.scale + f64Value e.offset

/-- R107 with R122, R124, R128: Engine Speed HR of the frame 0x01 0xF4 is 6250.0, in any catalog that holds it. -/
def Obligations.EngineSpeedVector : Prop :=
  ∀ (s : State) (id : Byte) (name unit : Bytes), s.cfgStatus = .ready →
    s.config.cat[id.toNat]? = some ⟨.dual 0x00#8 0x01#8, 0x4029000000000000#64, 0#64, name, unit⟩ →
    exec (.extract id [0x01#8, 0xF4#8]) s = .next (s.answer [0x00#8, 0x01#8, 0xF4#8]) ∧
    exec (.value id [0x01#8, 0xF4#8]) s
      = .next (s.answer [0x00#8, 0x40#8, 0xB8#8, 0x6A#8, 0x00#8, 0x00#8, 0x00#8, 0x00#8, 0x00#8])

/-! ## The byte scanner -/

/-- R141, R142, R143: SCAN answers the bytes after the first occurrence; else the longest non-empty suffix that is a proper
prefix of the needle; else nothing. Nothing but the response changes. -/
def Obligations.ScanFindsFirstOrKeepsLongest : Prop :=
  ∀ (s : State) (needle buffer : Bytes), s.cfgStatus = .ready → 1 ≤ needle.length →
    (∀ before after : Bytes, FirstOccurrence needle buffer before after →
      exec (.scan needle buffer) s = .next (s.answer ([0x00#8, 0x01#8] ++ be16 after.length ++ after))) ∧
    (∀ suffix : Bytes, NoOccurrence needle buffer → suffix ≠ [] → PartialMatch needle buffer suffix →
      (∀ other : Bytes, PartialMatch needle buffer other → other.length ≤ suffix.length) →
      exec (.scan needle buffer) s = .next (s.answer ([0x00#8, 0x00#8] ++ be16 suffix.length ++ suffix))) ∧
    (NoOccurrence needle buffer → (∀ suffix : Bytes, PartialMatch needle buffer suffix → suffix = []) →
      exec (.scan needle buffer) s = .next (s.answer [0x00#8, 0x00#8, 0x00#8, 0x00#8]))

/-- R145, the fragment law: scanning a remainder with the next fragment is scanning the whole. -/
def Obligations.ScannerFragmentLaw : Prop :=
  ∀ needle a b r : Bytes, needle ≠ [] → scanMatch a needle = (false, r) →
    scanMatch (r ++ b) needle = scanMatch (a ++ b) needle

/-! ## The command codec -/

/-- R160, R164: BUILD_CMD answers a marker pair for each identifier, in order, with its canonical register, then
STREAM_START; the first identifier of `N` or more is the error. Nothing but the response changes. -/
def Obligations.BuildCmdEmitsPairsInOrder : Prop :=
  ∀ (s : State) (ids : Bytes), s.cfgStatus = .ready →
    (ids.length ≤ s.config.listMax → s.config.listMax ≤ 32767 →
      decode s.config (.request (0x30#8 :: (be16 ids.length ++ ids))) = .ok (.buildCmd ids)) ∧
    (∀ entries : List Entry, ids.map (fun id => s.config.cat[id.toNat]?) = entries.map some →
      exec (.buildCmd ids) s = .next (s.answer ([0x00#8] ++ be16 (2 * ids.length + 1)
        ++ (entries.flatMap fun e => [0x5A#8, canon e]) ++ [0xF0#8]))) ∧
    (∀ (before after : Bytes) (id : Byte), ids = before ++ id :: after → s.config.cat.length ≤ id.toNat →
      (∀ x ∈ before, x.toNat < s.config.cat.length) →
      exec (.buildCmd ids) s = .next (s.answer [0x01#8, id]))

/-- R161, R162: PARSE_CMD reads the bytes before the first 0xF0 (all of them if there is none), skips every 0x5A and resolves
the rest in order; the first that does not resolve is the error. Nothing but the response changes. -/
def Obligations.ParseCmdResolvesInOrder : Prop :=
  ∀ (s : State) (bytes registers : Bytes), s.cfgStatus = .ready →
    (bytes.length ≤ s.config.listMax → s.config.listMax ≤ 32767 →
      decode s.config (.request (0x31#8 :: (be16 bytes.length ++ bytes))) = .ok (.parseCmd bytes)) ∧ (
    registers = (bytes.takeWhile fun b => b != 0xF0#8).filter (fun b => b != 0x5A#8) →
    (∀ ids : Bytes, registers.map (revmap s.config) = ids.map some →
      exec (.parseCmd bytes) s = .next (s.answer ([0x00#8] ++ be16 ids.length ++ ids))) ∧
    (∀ (before after : Bytes) (b : Byte), registers = before ++ b :: after → revmap s.config b = none →
      (∀ x ∈ before, revmap s.config x ≠ none) →
      exec (.parseCmd bytes) s = .next (s.answer [0x02#8, b])))

/-- R163, the round-trip law: identifiers that the reverse map returns for their own canonical byte, none of them 0x5A or
0xF0, come back from the command built for them, in order. -/
def Obligations.CommandRoundTripLaw : Prop :=
  ∀ (s : State) (ids : Bytes), s.cfgStatus = .ready → ids.length ≤ s.config.listMax →
    (∀ id ∈ ids, ∃ e : Entry, s.config.cat[id.toNat]? = some e ∧ revmap s.config (canon e) = some id ∧
      canon e ≠ 0x5A#8 ∧ canon e ≠ 0xF0#8) →
    ∃ command : Bytes,
      exec (.buildCmd ids) s = .next (s.answer ([0x00#8] ++ be16 command.length ++ command)) ∧
      exec (.parseCmd command) s = .next (s.answer ([0x00#8] ++ be16 ids.length ++ ids))

/-! ## The frame decoder -/

/-- R180, R183, R185: when the frame reaches every register of every enabled parameter, DECODE answers their number and one
pair for each, in ascending identifier order, carrying exactly the value VALUE answers for it. Nothing but the response
changes. -/
def Obligations.DecodeAnswersEveryEnabledValue : Prop :=
  ∀ (s : State) (frame : Bytes), s.cfgStatus = .ready → s.config.cat.length ≤ 255 →
    (∀ (i : Nat) (e : Entry), s.en[i]? = some true → s.config.cat[i]? = some e → ∀ r ∈ regs e, r.toNat < frame.length) →
    ∃ values : List (Nat × F64),
      values.map Prod.fst = (List.range s.config.cat.length).filter (fun i => s.en[i]? == some true) ∧
      (∀ p ∈ values, exec (.value (BitVec.ofNat 8 p.1) frame) s = .next (s.answer (0x00#8 :: be64 p.2))) ∧
      exec (.decodeFrame frame) s = .next (s.answer ([0x00#8, BitVec.ofNat 8 values.length]
        ++ values.flatMap fun p => BitVec.ofNat 8 p.1 :: be64 p.2))

/-- R180, R182: when an enabled parameter reads past the frame, DECODE answers FrameTooShort for the first such parameter, in
catalog order, with the register VALUE names for it, and no value. Nothing but the response changes. -/
def Obligations.DecodeFailsWhole : Prop :=
  ∀ (s : State) (frame : Bytes) (before after : List Nat) (i : Nat) (e : Entry),
    s.cfgStatus = .ready → s.config.cat.length ≤ 255 →
    (List.range s.config.cat.length).filter (fun i => s.en[i]? == some true) = before ++ i :: after →
    (∀ j ∈ before, ∀ f : Entry, s.config.cat[j]? = some f → ∀ r ∈ regs f, r.toNat < frame.length) →
    s.config.cat[i]? = some e → (∃ r ∈ regs e, frame.length ≤ r.toNat) →
    ∃ reg ∈ regs e, frame.length ≤ reg.toNat ∧
      exec (.value (BitVec.ofNat 8 i) frame) s = .next (s.answer [0x03#8, BitVec.ofNat 8 i, reg]) ∧
      exec (.decodeFrame frame) s = .next (s.answer [0x03#8, BitVec.ofNat 8 i, reg])

/-- R181, R184: DECODE depends on the frame only through the registers of enabled parameters: two frames, of whatever
lengths, that agree there get the same response. -/
def Obligations.DecodeReadsEnabledRegistersOnly : Prop :=
  ∀ (s : State) (f g : Bytes),
    (∀ (i : Nat) (e : Entry), s.en[i]? = some true → s.config.cat[i]? = some e →
      ∀ r ∈ regs e, f[r.toNat]? = g[r.toNat]?) →
    ∃ bytes : Bytes, exec (.decodeFrame f) s = .next (s.answer bytes) ∧ exec (.decodeFrame g) s = .next (s.answer bytes)

/-! ## The stream synchronizer -/

/-- R201, R204, R255: a push in UNINITIALIZED. On the init marker the state becomes INITIALIZED with the bytes after its first
occurrence held and nothing dispatched; otherwise only `[0xFF, 0xFF]`, `[0xFF]` or nothing is kept. -/
def Obligations.PushInUninitialized : Prop :=
  ∀ (s : State) (chunk : Bytes), s.cfgStatus = .ready → s.syncState = .uninitialized → 2 ≤ s.config.syncBufCap →
    (∀ before after : Bytes, FirstOccurrence [0xFF#8, 0xFF#8, 0xEF#8] (s.syncBuf ++ chunk) before after →
      after.length ≤ s.config.syncBufCap →
      exec (.syncPush chunk) s = .next { s with
        syncState := .initialized, syncBuf := after,
        responses := s.responses ++ [⟨s.serving, [0x00#8, 0x01#8, 0x00#8, 0x00#8]⟩] }) ∧
    (∀ kept : Bytes, NoOccurrence [0xFF#8, 0xFF#8, 0xEF#8] (s.syncBuf ++ chunk) →
      (kept = [0xFF#8, 0xFF#8] ∧ [0xFF#8, 0xFF#8] <:+ s.syncBuf ++ chunk ∨
       kept = [0xFF#8] ∧ [0xFF#8] <:+ s.syncBuf ++ chunk ∧ ¬ [0xFF#8, 0xFF#8] <:+ s.syncBuf ++ chunk ∨
       kept = [] ∧ ¬ [0xFF#8] <:+ s.syncBuf ++ chunk) →
      exec (.syncPush chunk) s = .next { s with
        syncBuf := kept, responses := s.responses ++ [⟨s.serving, [0x00#8, 0x00#8, 0x00#8, 0x00#8]⟩] })

/-- R202, R204, R208, R229: a push in INITIALIZED. The first 0x5A with a byte after it dispatches that byte and discards
everything up to it; with no such pair all bytes are held; a buffer that would be longer than SYNC_BUF_CAP is
SyncBufferOverflow and changes nothing. -/
def Obligations.PushInInitialized : Prop :=
  ∀ (s : State) (chunk : Bytes), s.cfgStatus = .ready → s.syncState = .initialized →
    (∀ (before after : Bytes) (c : Byte), s.syncBuf ++ chunk = before ++ 0x5A#8 :: c :: after → 0x5A#8 ∉ before →
      (after.length ≤ s.config.syncBufCap →
        exec (.syncPush chunk) s = .next { s with
          syncBuf := after, responses := s.responses ++ [⟨s.serving, [0x00#8, 0x01#8, 0x01#8, c]⟩] }) ∧
      (s.config.syncBufCap < after.length →
        exec (.syncPush chunk) s = .next { s with responses := s.responses ++ [⟨s.serving, [0x07#8]⟩] })) ∧
    ((∀ (before after : Bytes) (c : Byte), s.syncBuf ++ chunk ≠ before ++ 0x5A#8 :: c :: after) →
      ((s.syncBuf ++ chunk).length ≤ s.config.syncBufCap →
        exec (.syncPush chunk) s = .next { s with
          syncBuf := s.syncBuf ++ chunk,
          responses := s.responses ++ [⟨s.serving, [0x00#8, 0x01#8, 0x00#8, 0x00#8]⟩] }) ∧
      (s.config.syncBufCap < (s.syncBuf ++ chunk).length →
        exec (.syncPush chunk) s = .next { s with responses := s.responses ++ [⟨s.serving, [0x07#8]⟩] }))

/-- R205: SYNC_STATUS answers SYNC_STATE, SYNC_LEN and the held bytes, and changes nothing but the response. -/
def Obligations.SyncStatusReadsSynchronizer : Prop :=
  ∀ (c : Config) (s : State),
    decode c (.request [0x51#8]) = .ok .syncStatus ∧
    (s.cfgStatus = .ready →
      (s.syncState = .uninitialized →
        exec .syncStatus s = .next (s.answer ([0x00#8, 0x00#8] ++ be16 s.syncBuf.length ++ s.syncBuf))) ∧
      (s.syncState = .initialized →
        exec .syncStatus s = .next (s.answer ([0x00#8, 0x01#8] ++ be16 s.syncBuf.length ++ s.syncBuf))))

/-- R204, D11: in every state of the invariant a push of at most LIST_MAX bytes in UNINITIALIZED is answered OK: it never
overflows. -/
def Obligations.UninitializedPushNeverOverflows : Prop :=
  ∀ (s : State) (chunk : Bytes), Inv s → s.cfgStatus = .ready → s.syncState = .uninitialized →
    chunk.length ≤ s.config.listMax →
    ∃ (t : State) (payload : Bytes), exec (.syncPush chunk) s = .next t ∧
      t.responses = s.responses ++ [⟨s.serving, 0x00#8 :: payload⟩] ∧ t.syncBuf.length ≤ 2 + chunk.length

/-- R206: INITIALIZED is kept by every instruction; only reset leaves it. -/
def Obligations.InitializedIsKeptUntilReset : Prop :=
  ∀ s t : State, s.syncState = .initialized →
    (∀ i : Instr, exec i s = .next t → t.syncState = .initialized) ∧
    (step s = .next t → (∀ turns : List Turn, s.turns ≠ .reset :: turns) → t.syncState = .initialized)

/-- R207, the resynchronization law: a stream pushed from reset in any chunks, no push raising, is INITIALIZED exactly when
the bytes pushed so far hold the init marker, and the push that completes it leaves held exactly the bytes after its first
occurrence. In INITIALIZED a push that is answered with an error keeps the held bytes as they are, and one that is answered OK
either holds every byte of the chunk behind them or discards only bytes before the first 0x5A and the pair it dispatches. -/
def Obligations.ResynchronizationLaw : Prop :=
  (∀ (c : Config) (chunks : List Bytes) (t : State), configWf c = true → checkCat c = .ready →
    execAll (chunks.map .syncPush) (State.resetOf c) = .next t →
    (∀ a ∈ t.responses, a.bytes.head? = some 0x00#8) →
    (t.syncState = .initialized ↔ [0xFF#8, 0xFF#8, 0xEF#8] <:+: chunks.flatten) ∧
    (∀ (earlier : List Bytes) (last : Bytes), chunks = earlier ++ [last] →
      ¬ [0xFF#8, 0xFF#8, 0xEF#8] <:+: earlier.flatten → [0xFF#8, 0xFF#8, 0xEF#8] <:+: chunks.flatten →
      ∃ before : Bytes, FirstOccurrence [0xFF#8, 0xFF#8, 0xEF#8] chunks.flatten before t.syncBuf)) ∧
  (∀ (s t : State) (chunk : Bytes), s.syncState = .initialized → exec (.syncPush chunk) s = .next t →
    ∃ (status : Byte) (more : Bytes), t.responses = s.responses ++ [⟨s.serving, status :: more⟩] ∧
      (status ≠ 0x00#8 ∧ t.syncBuf = s.syncBuf ∨
       status = 0x00#8 ∧ more = [0x01#8, 0x00#8, 0x00#8] ∧ t.syncBuf = s.syncBuf ++ chunk ∨
       status = 0x00#8 ∧ ∃ (before : Bytes) (c : Byte), more = [0x01#8, 0x01#8, c] ∧
         s.syncBuf ++ chunk = before ++ 0x5A#8 :: c :: t.syncBuf ∧ 0x5A#8 ∉ before))

/-- R256, R208: held pairs are dispatched one for each push of an empty chunk, in stream order, and then DISPATCHED is 0. -/
def Obligations.HeldCommandsDrainInOrder : Prop :=
  ∀ (s : State) (commands : Bytes), s.cfgStatus = .ready → s.syncState = .initialized →
    s.syncBuf = commands.flatMap (fun c => [0x5A#8, c]) → s.syncBuf.length ≤ s.config.syncBufCap →
    execAll (List.replicate (commands.length + 1) (.syncPush [])) s = .next { s with
      syncBuf := [],
      responses := s.responses ++ commands.map (fun c => (⟨s.serving, [0x00#8, 0x01#8, 0x01#8, c]⟩ : Answer))
        ++ [⟨s.serving, [0x00#8, 0x01#8, 0x00#8, 0x00#8]⟩] }

/-! ## Wire tokens -/

/-- A wire token that arrives is the push of exactly its bytes. This is the model's choice (notes/assumptions/3.md): R91 and R92
give the tokens no step of their own. -/
def Obligations.WireTokensArePushes : Prop :=
  ∀ (s : State) (r : Byte),
    exec (.wireMarkerPair r) s = exec (.syncPush [0x5A#8, r]) s ∧
    exec .wireStreamStart s = exec (.syncPush [0xF0#8]) s ∧
    exec .wireInit s = exec (.syncPush [0xFF#8, 0xFF#8, 0xEF#8]) s ∧
    exec .wireInitResponse s = exec (.syncPush [0x10#8]) s ∧
    exec .wireStreamStop s = exec (.syncPush [0x30#8]) s ∧
    exec .wireStopAck s = exec (.syncPush [0xCF#8]) s

/-- R91, R92: what the synchronizer does with an arriving token (notes/assumptions/3.md). INIT in UNINITIALIZED with nothing held
initializes it; a marker pair in INITIALIZED dispatches its byte; the four single-byte tokens are held in INITIALIZED,
dispatched when a held 0x5A precedes them, and dropped in UNINITIALIZED. -/
def Obligations.WireTokensAtTheSynchronizer : Prop :=
  ∀ (s : State) (r : Byte) (i : Instr) (x : Byte), s.cfgStatus = .ready → 3 ≤ s.config.syncBufCap →
    (i, x) ∈ [(Instr.wireStreamStart, 0xF0#8), (.wireInitResponse, 0x10#8), (.wireStreamStop, 0x30#8), (.wireStopAck, 0xCF#8)] →
    (s.syncState = .uninitialized → s.syncBuf = [] →
      exec .wireInit s = .next { s with
        syncState := .initialized, responses := s.responses ++ [⟨s.serving, [0x00#8, 0x01#8, 0x00#8, 0x00#8]⟩] }) ∧
    (s.syncState = .initialized → 0x5A#8 ∉ s.syncBuf →
      exec (.wireMarkerPair r) s = .next { s with
        syncBuf := [], responses := s.responses ++ [⟨s.serving, [0x00#8, 0x01#8, 0x01#8, r]⟩] }) ∧
    (s.syncState = .initialized → 0x5A#8 ∉ s.syncBuf → s.syncBuf.length < s.config.syncBufCap →
      exec i s = .next { s with
        syncBuf := s.syncBuf ++ [x], responses := s.responses ++ [⟨s.serving, [0x00#8, 0x01#8, 0x00#8, 0x00#8]⟩] }) ∧
    (∀ before : Bytes, s.syncState = .initialized → s.syncBuf = before ++ [0x5A#8] → 0x5A#8 ∉ before →
      exec i s = .next { s with
        syncBuf := [], responses := s.responses ++ [⟨s.serving, [0x00#8, 0x01#8, 0x01#8, x]⟩] }) ∧
    (s.syncState = .uninitialized → s.syncBuf ∈ [[], [0xFF#8], [0xFF#8, 0xFF#8]] →
      exec i s = .next { s with
        syncBuf := [], responses := s.responses ++ [⟨s.serving, [0x00#8, 0x00#8, 0x00#8, 0x00#8]⟩] })

/-- R91: the codec's side of the tokens. BUILD_CMD emits marker pairs and STREAM_START last; PARSE_CMD skips the marker of a
pair and resolves its byte, and stops at STREAM_START, however the bytes after it read. -/
def Obligations.CodecBuildsAndParsesWireTokens : Prop :=
  ∀ (s : State) (id : Byte) (e : Entry) (after : Bytes), s.cfgStatus = .ready → s.config.cat[id.toNat]? = some e →
    exec (.buildCmd [id]) s
      = .next (s.answer ([0x00#8] ++ be16 3 ++ encode (.wireMarkerPair (canon e)) ++ encode .wireStreamStart)) ∧
    (∀ (r x : Byte), r ≠ 0x5A#8 → r ≠ 0xF0#8 → revmap s.config r = some x →
      exec (.parseCmd (encode (.wireMarkerPair r) ++ encode .wireStreamStart ++ after)) s
        = .next (s.answer ([0x00#8] ++ be16 1 ++ [x])))

/-! ## Whole-machine rules -/

/-- R36, R38, R64: who writes what. Every instruction completes with exactly one response, writes no configuration, no
CFG_STATUS and nothing at the port but that response; EN is written by ENABLE alone; SYNC_STATE and SYNC_BUF are written by
SYNC_PUSH (and the wire tokens, which are pushes) alone. -/
def Obligations.EachElementHasOneWriter : Prop :=
  ∀ (i : Instr) (s : State), ∃ t : State, exec i s = .next t ∧
    t.config = s.config ∧ t.cfgStatus = s.cfgStatus ∧ t.control = s.control ∧ t.worker = s.worker ∧ t.turns = s.turns ∧
    t.serving = s.serving ∧
    (∃ bytes : Bytes, bytes ≠ [] ∧ t.responses = s.responses ++ [⟨s.serving, bytes⟩]) ∧
    ((∀ id v, i ≠ .enable id v) → t.en = s.en) ∧
    ((∀ chunk, i ≠ .syncPush chunk) → i.isWire = false → t.syncState = s.syncState ∧ t.syncBuf = s.syncBuf) ∧
    (∀ id v, i = .enable id v → ∀ k : Nat, k ≠ id.toNat → t.en[k]? = s.en[k]?)

/-- R18, R222, R231: a request that gets an error response, whatever its bytes, has written no state and leaves nothing for the
next request to see. R220: the status is at most 0x07. -/
def Obligations.ErrorsLeaveNothingBehind : Prop :=
  ∀ s t : State,
    (∀ p : Packet, serve p s = .next t → LeavesNothingBehind s t) ∧
    (∀ i : Instr, exec i s = .next t → LeavesNothingBehind s t)

/-- R69: the twelve operations that write no state give the same response when repeated, and ENABLE leaves the same EN. -/
def Obligations.ReadsAndEnableAreIdempotent : Prop :=
  ∀ (i : Instr) (s t : State), i.isWire = false → (∀ chunk, i ≠ .syncPush chunk) → exec i s = .next t →
    ∃ bytes : Bytes, t.responses = s.responses ++ [⟨s.serving, bytes⟩] ∧ exec i t = .next (t.answer bytes)

/-- The invariant holds right after reset, for every configuration that is a CFD's. -/
def Obligations.ResetEstablishesTheInvariant : Prop :=
  ∀ c : Config, configWf c = true → Inv (State.resetOf c)

/-- The invariant is kept by every step, whatever packet is accepted. -/
def Obligations.StepKeepsTheInvariant : Prop :=
  ∀ s t : State, Inv s → step s = .next t → Inv t

/-! ## The entries the source pins -/

/-- R107 to R110: in a CFD whose catalog holds the entries the source pins, Engine Speed HR is read as the Dual 0x00/0x01 with
scale 12.5 and offset 0, A/C On as bit 4 and Power Steering as bit 3 of register 0x13, and MAF Voltage and MAF Voltage RH have
no register in common, so that neither's canonical register finds the other. A CFD need not hold the entries, but no CFD has
the two MAF entries share a register (notes/assumptions/9.md). Entries are known by their names' bytes, of which those of
Power Steering and of the two MAF names are the model's reading (DEDUCED, notes/assumptions/10.md). -/
def Obligations.PinnedEntriesAreServed : Prop :=
  ∀ s : State, s.cfgStatus = .ready → configWf s.config = true →
    (∀ e ∈ s.config.cat, ∀ g ∈ s.config.cat, e.name = nameMafVoltage → g.name = nameMafVoltageRh →
      ∀ r ∈ regs e, r ∉ regs g) ∧
    (configPinned s.config = true →
      (∃ (id : Byte) (unit : Bytes),
        exec (.lookupId id) s = .next (s.answer ([0x00#8, 1#8, 0x00#8, 0x01#8, 0#8] ++ be64 0x4029000000000000#64 ++ be64 0#64
          ++ [15#8] ++ nameEngineSpeedHr ++ [BitVec.ofNat 8 unit.length] ++ unit)) ∧
        ∀ (frame : Bytes) (hi lo : Byte), frame[0]? = some hi → frame[1]? = some lo →
          exec (.extract id frame) s = .next (s.answer [0x00#8, hi, lo])) ∧
      (∃ (id : Byte) (e : Entry), s.config.cat[id.toNat]? = some e ∧ e.name = nameAcOn ∧
        ∀ (frame : Bytes) (x : Byte), frame[0x13]? = some x →
          exec (.extract id frame) s = .next (s.answer [0x00#8, 0x00#8, if x.getLsbD 4 then 1#8 else 0#8])) ∧
      (∃ (id : Byte) (e : Entry), s.config.cat[id.toNat]? = some e ∧ e.name = namePowerSteering ∧
        ∀ (frame : Bytes) (x : Byte), frame[0x13]? = some x →
          exec (.extract id frame) s = .next (s.answer [0x00#8, 0x00#8, if x.getLsbD 3 then 1#8 else 0#8])) ∧
      ∃ (i j : Byte) (e g : Entry), s.config.cat[i.toNat]? = some e ∧ s.config.cat[j.toNat]? = some g ∧
        e.name = nameMafVoltage ∧ g.name = nameMafVoltageRh ∧
        exec (.lookupReg (canon e)) s ≠ .next (s.answer [0x00#8, 0x01#8, j]) ∧
        exec (.lookupReg (canon g)) s ≠ .next (s.answer [0x00#8, 0x01#8, i]))
end

