-- ==== Sys2Proof/Laws/Bytes.lean ====
section
/-! SUPPORT. Laws/Bytes.lean: the big-endian fields and the formats that carry a list. -/
namespace Sys2Proof

open Sys2Proof.Machine

theorem be16_length (n : Nat) : (be16 n).length = 2 := rfl

theorem be64_length (v : F64) : (be64 v).length = 8 := rfl

/-- A BE16 field reads back (R82). -/
theorem readBe16_be16 (n : Nat) (h : n < 65536) :
    readBe16 (BitVec.ofNat 8 (n / 256)) (BitVec.ofNat 8 n) = n := by
  simp only [readBe16, BitVec.toNat_ofNat]
  omega

/-- A BE16 field has one reading. -/
theorem be16_readBe16 (hi lo : Byte) : be16 (readBe16 hi lo) = [hi, lo] := by
  have h1 := hi.isLt
  have h2 := lo.isLt
  simp only [be16, readBe16, List.cons.injEq, and_true]
  constructor <;> apply BitVec.eq_of_toNat_eq <;> simp only [BitVec.toNat_ofNat] <;> omega

theorem readBe16_lt (hi lo : Byte) : readBe16 hi lo < 65536 := by
  have h1 := hi.isLt
  have h2 := lo.isLt
  simp only [readBe16]
  omega

/-- F-L accepts a list of at most LIST_MAX bytes, its own encoding. -/
theorem formatL_encodeList (c : Config) (mk : Bytes → Instr) (data : Bytes) (h : data.length ≤ c.listMax)
    (hc : c.listMax < 65536) : formatL c mk (encodeList data) = .ok (mk data) := by
  have hr := readBe16_be16 data.length (by omega)
  simp [encodeList, be16, formatL, hr, h]

/-- F-L accepts nothing else. -/
theorem formatL_ok {c : Config} {mk : Bytes → Instr} {rest : Bytes} {i : Instr} (h : formatL c mk rest = .ok i) :
    ∃ data, rest = encodeList data ∧ data.length ≤ c.listMax ∧ i = mk data := by
  match rest, h with
  | hi :: lo :: data, h =>
    simp only [formatL] at h
    split at h
    · split at h
      · rename_i hle hlen
        refine ⟨data, ?_, by omega, (Except.ok.inj h).symm⟩
        rw [encodeList, hlen, be16_readBe16]
        rfl
      · cases h
    · cases h

end Sys2Proof
end

