-- ==== Sys2Proof/Laws/Catalog.lean ====
section
/-! SUPPORT. Laws/Catalog.lean: the checks of a configuration, said once in the terms of `IsCfd`. -/
namespace Sys2Proof

open Sys2Proof.Machine

/-- Two entries have disjoint registers (R110). -/
theorem regsDisjoint_iff (e g : Entry) : regsDisjoint e g = true ↔ ∀ r ∈ regs e, r ∉ regs g := by
  simp [regsDisjoint]

/-- The constraint of R110, written out. -/
theorem mafDistinct_iff (c : Config) : mafDistinct c = true ↔
    ∀ e ∈ c.cat, ∀ g ∈ c.cat, e.name = nameMafVoltage → g.name = nameMafVoltageRh → ∀ r ∈ regs e, r ∉ regs g := by
  simp only [mafDistinct, List.all_eq_true, Bool.or_eq_true, bne_iff_ne, regsDisjoint_iff, ne_eq]
  refine forall₂_congr fun e _ => ⟨fun h g hg he hn => ?_, fun h => ?_⟩
  · exact ((h.resolve_left (not_not.mpr he)) g hg).resolve_left (not_not.mpr hn)
  · by_cases he : e.name = nameMafVoltage
    · refine .inr fun g hg => ?_
      by_cases hn : g.name = nameMafVoltageRh
      · exact .inr (h g hg he hn)
      · exact .inl hn
    · exact .inl he

/-- What `configWf` checks (R11, R104, R110). -/
theorem configWf_iff (c : Config) : configWf c = true ↔
    (1 ≤ c.cat.length ∧ c.cat.length ≤ 255) ∧ (511 ≤ c.listMax ∧ c.listMax ≤ 32767) ∧
    (3 ≤ c.needleMax ∧ c.needleMax ≤ 255) ∧ (c.listMax + 2 ≤ c.syncBufCap ∧ c.syncBufCap ≤ 65535) ∧
    (∀ e ∈ c.cat, entryWf e = true) ∧ mafDistinct c = true := by
  unfold configWf Config.size
  simp only [Bool.and_eq_true, decide_eq_true_eq, List.all_eq_true, and_assoc]

/-- What `variantWf` checks: R104 (c) and (d). -/
theorem variantWf_iff (v : Variant) : variantWf v = true ↔
    (∀ reg bit : Byte, v = .bit reg bit → bit.toNat ≤ 7) ∧ ∀ msb lsb : Byte, v = .dual msb lsb → msb ≠ lsb := by
  cases v <;> simp [variantWf]

end Sys2Proof
end

