-- ==== Sys2Proof/Laws/Float64.lean ====
section
/-! SUPPORT. Laws/Float64.lean: the fields of a packed pattern and the error bound of one rounding. -/
namespace Sys2Proof.Machine

/-- The number a packed pattern is. -/
theorem f64Pack_toNat (neg : Bool) (mag : Nat) :
    (f64Pack neg mag).toNat = (if neg then 2 ^ 63 else 0) + min mag (2047 * 2 ^ 52) := by
  cases neg <;> simp only [f64Pack, BitVec.toNat_ofNat] <;> split <;> omega

/-- The sign of a packed pattern. -/
theorem f64Neg_pack (neg : Bool) (mag : Nat) : f64Neg (f64Pack neg mag) = neg := by
  rw [f64Neg, BitVec.getLsbD, f64Pack_toNat, Nat.testBit_eq_decide_div_mod_eq]
  cases neg
  · simp
    omega
  · simp
    omega

/-- The exponent field of a packed pattern. -/
theorem f64Exponent_pack (neg : Bool) (mag : Nat) :
    f64Exponent (f64Pack neg mag) = min mag (2047 * 2 ^ 52) / 2 ^ 52 := by
  rw [f64Exponent, f64Pack_toNat]
  cases neg <;> simp <;> omega

/-- A packed pattern is finite below the infinity's magnitude. -/
theorem f64IsFinite_pack (neg : Bool) (mag : Nat) : f64IsFinite (f64Pack neg mag) = decide (mag < 2047 * 2 ^ 52) := by
  rw [f64IsFinite, f64Exponent_pack, Bool.eq_iff_iff, bne_iff_ne, decide_eq_true_iff]
  omega

/-- Rounding a shift is off by at most half a unit, and lands on the even one of two equally near (R19). -/
theorem roundShift_bounds (m k : Nat) :
    2 * (roundShift m k * 2 ^ k) ≤ 2 * m + 2 ^ k ∧ 2 * m ≤ 2 * (roundShift m k * 2 ^ k) + 2 ^ k ∧
      (2 * (roundShift m k * 2 ^ k) = 2 * m + 2 ^ k ∨ 2 * m = 2 * (roundShift m k * 2 ^ k) + 2 ^ k →
        roundShift m k % 2 = 0) := by
  have hk : 0 < 2 ^ k := Nat.two_pow_pos k
  have hm := Nat.div_add_mod m (2 ^ k)
  have hr := Nat.mod_lt m hk
  have h1 : (m / 2 ^ k + 1) * 2 ^ k = 2 ^ k * (m / 2 ^ k) + 2 ^ k := by ring
  have h2 : m / 2 ^ k * 2 ^ k = 2 ^ k * (m / 2 ^ k) := by ring
  unfold roundShift
  split
  · rw [h1]; omega
  · rw [h2]; omega

end Sys2Proof.Machine
end

