-- ==== Sys2Proof/Laws/Operands.lean ====
section
/-! SUPPORT. Laws/Operands.lean: what the frame reads, the big-endian pair and the reverse map give. -/
namespace Sys2Proof.Machine

/-- A frame byte is read exactly when its address is below the length (R60, R120). -/
theorem frameByte_ok_iff (id a : Byte) (frame : Bytes) (x : Byte) :
    frameByte id a frame = .ok x ↔ frame[a.toNat]? = some x := by
  unfold frameByte
  split <;> simp_all

/-- Otherwise FrameTooShort names the parameter and the register (R225). -/
theorem frameByte_error_iff (id a : Byte) (frame : Bytes) (r : OpError) :
    frameByte id a frame = .error r ↔ frame.length ≤ a.toNat ∧ r = .frameTooShort id a := by
  unfold frameByte
  split
  · rename_i b hb
    have := (List.getElem?_eq_some_iff.mp hb).1
    simp
    omega
  · rename_i hb
    have := List.getElem?_eq_none_iff.mp hb
    simp [this, eq_comm]

/-- The value of a big-endian pair (R66). -/
theorem bigEndianPair_toNat (hi lo : Byte) : (bigEndianPair hi lo).toNat = hi.toNat * 256 + lo.toNat := by
  have h1 := hi.isLt
  have h2 := lo.isLt
  have h3 : hi.toNat % 65536 = hi.toNat := Nat.mod_eq_of_lt (by omega)
  have h4 : lo.toNat % 65536 = lo.toNat := Nat.mod_eq_of_lt (by omega)
  have h5 : hi.toNat <<< 8 % 65536 = hi.toNat <<< 8 := Nat.mod_eq_of_lt (by rw [Nat.shiftLeft_eq]; omega)
  simp only [bigEndianPair, BitVec.toNat_or, BitVec.toNat_shiftLeft, BitVec.toNat_setWidth, h3, h4, h5]
  rw [← Nat.shiftLeft_add_eq_or_of_lt (by simpa using h2), Nat.shiftLeft_eq]

/-- A raw bit is 0 or 1 (R125). -/
theorem bitOf_toNat (b : Byte) (i : Nat) : (bitOf b i).toNat = b.toNat / 2 ^ i % 2 := by
  simp only [bitOf, BitVec.toNat_ofNat]
  omega

/-- The candidates of the reverse map (R111). -/
theorem mem_canonIds (c : Config) (b : Byte) (i : Nat) :
    i ∈ canonIds c b ↔ ∃ e, c.cat[i]? = some e ∧ canon e = b := by
  simp only [canonIds, idList, Config.size, List.mem_filter, List.mem_range]
  constructor
  · rintro ⟨hi, h⟩
    exact ⟨c.cat[i], by simp [hi], by simpa [hi] using h⟩
  · rintro ⟨e, he, hb⟩
    exact ⟨(List.getElem?_eq_some_iff.mp he).1, by simp [he, hb]⟩

end Sys2Proof.Machine
end

