-- ==== Sys2Proof/Laws/State.lean ====
section
/-! SUPPORT. Laws/State.lean: one lemma for each field of State and each update of it, so that no proof unfolds a record
update. -/
namespace Sys2Proof.Machine

/-! ## `setEn` -/

@[simp] theorem State.setEn_config (s : State) (i : Nat) (v : Bool) :
    (s.setEn i v).config = s.config := rfl
@[simp] theorem State.setEn_en (s : State) (i : Nat) (v : Bool) :
    (s.setEn i v).en = s.en.set i v := rfl
@[simp] theorem State.setEn_syncState (s : State) (i : Nat) (v : Bool) :
    (s.setEn i v).syncState = s.syncState := rfl
@[simp] theorem State.setEn_syncBuf (s : State) (i : Nat) (v : Bool) :
    (s.setEn i v).syncBuf = s.syncBuf := rfl
@[simp] theorem State.setEn_cfgStatus (s : State) (i : Nat) (v : Bool) :
    (s.setEn i v).cfgStatus = s.cfgStatus := rfl
@[simp] theorem State.setEn_control (s : State) (i : Nat) (v : Bool) :
    (s.setEn i v).control = s.control := rfl
@[simp] theorem State.setEn_worker (s : State) (i : Nat) (v : Bool) :
    (s.setEn i v).worker = s.worker := rfl
@[simp] theorem State.setEn_turns (s : State) (i : Nat) (v : Bool) :
    (s.setEn i v).turns = s.turns := rfl
@[simp] theorem State.setEn_serving (s : State) (i : Nat) (v : Bool) :
    (s.setEn i v).serving = s.serving := rfl
@[simp] theorem State.setEn_responses (s : State) (i : Nat) (v : Bool) :
    (s.setEn i v).responses = s.responses := rfl

/-! ## `setSync` -/

@[simp] theorem State.setSync_config (s : State) (st : SyncState) (buf : Bytes) :
    (s.setSync st buf).config = s.config := rfl
@[simp] theorem State.setSync_en (s : State) (st : SyncState) (buf : Bytes) :
    (s.setSync st buf).en = s.en := rfl
@[simp] theorem State.setSync_syncState (s : State) (st : SyncState) (buf : Bytes) :
    (s.setSync st buf).syncState = st := rfl
@[simp] theorem State.setSync_syncBuf (s : State) (st : SyncState) (buf : Bytes) :
    (s.setSync st buf).syncBuf = buf := rfl
@[simp] theorem State.setSync_cfgStatus (s : State) (st : SyncState) (buf : Bytes) :
    (s.setSync st buf).cfgStatus = s.cfgStatus := rfl
@[simp] theorem State.setSync_control (s : State) (st : SyncState) (buf : Bytes) :
    (s.setSync st buf).control = s.control := rfl
@[simp] theorem State.setSync_worker (s : State) (st : SyncState) (buf : Bytes) :
    (s.setSync st buf).worker = s.worker := rfl
@[simp] theorem State.setSync_turns (s : State) (st : SyncState) (buf : Bytes) :
    (s.setSync st buf).turns = s.turns := rfl
@[simp] theorem State.setSync_serving (s : State) (st : SyncState) (buf : Bytes) :
    (s.setSync st buf).serving = s.serving := rfl
@[simp] theorem State.setSync_responses (s : State) (st : SyncState) (buf : Bytes) :
    (s.setSync st buf).responses = s.responses := rfl

/-! ## `answer` -/

@[simp] theorem State.answer_config (s : State) (bytes : Bytes) :
    (s.answer bytes).config = s.config := rfl
@[simp] theorem State.answer_en (s : State) (bytes : Bytes) :
    (s.answer bytes).en = s.en := rfl
@[simp] theorem State.answer_syncState (s : State) (bytes : Bytes) :
    (s.answer bytes).syncState = s.syncState := rfl
@[simp] theorem State.answer_syncBuf (s : State) (bytes : Bytes) :
    (s.answer bytes).syncBuf = s.syncBuf := rfl
@[simp] theorem State.answer_cfgStatus (s : State) (bytes : Bytes) :
    (s.answer bytes).cfgStatus = s.cfgStatus := rfl
@[simp] theorem State.answer_control (s : State) (bytes : Bytes) :
    (s.answer bytes).control = s.control := rfl
@[simp] theorem State.answer_worker (s : State) (bytes : Bytes) :
    (s.answer bytes).worker = s.worker := rfl
@[simp] theorem State.answer_turns (s : State) (bytes : Bytes) :
    (s.answer bytes).turns = s.turns := rfl
@[simp] theorem State.answer_serving (s : State) (bytes : Bytes) :
    (s.answer bytes).serving = s.serving := rfl
@[simp] theorem State.answer_responses (s : State) (bytes : Bytes) :
    (s.answer bytes).responses = s.responses ++ [⟨s.serving, bytes⟩] := rfl

/-! ## `afterReset` -/

@[simp] theorem State.afterReset_config (s : State) :
    (s.afterReset).config = s.config := rfl
@[simp] theorem State.afterReset_en (s : State) :
    (s.afterReset).en = List.replicate s.config.size false := rfl
@[simp] theorem State.afterReset_syncState (s : State) :
    (s.afterReset).syncState = .uninitialized := rfl
@[simp] theorem State.afterReset_syncBuf (s : State) :
    (s.afterReset).syncBuf = [] := rfl
@[simp] theorem State.afterReset_cfgStatus (s : State) :
    (s.afterReset).cfgStatus = checkCat s.config := rfl
@[simp] theorem State.afterReset_control (s : State) :
    (s.afterReset).control = s.control := rfl
@[simp] theorem State.afterReset_worker (s : State) :
    (s.afterReset).worker = s.worker := rfl
@[simp] theorem State.afterReset_turns (s : State) :
    (s.afterReset).turns = s.turns := rfl
@[simp] theorem State.afterReset_serving (s : State) :
    (s.afterReset).serving = s.serving := rfl
@[simp] theorem State.afterReset_responses (s : State) :
    (s.afterReset).responses = s.responses := rfl

/-! ## `accept` -/

@[simp] theorem State.accept_config (s : State) (a : Agent) (rest : List Packet) (turns : List Turn) :
    (s.accept a rest turns).config = s.config := by cases a <;> rfl
@[simp] theorem State.accept_en (s : State) (a : Agent) (rest : List Packet) (turns : List Turn) :
    (s.accept a rest turns).en = s.en := by cases a <;> rfl
@[simp] theorem State.accept_syncState (s : State) (a : Agent) (rest : List Packet) (turns : List Turn) :
    (s.accept a rest turns).syncState = s.syncState := by cases a <;> rfl
@[simp] theorem State.accept_syncBuf (s : State) (a : Agent) (rest : List Packet) (turns : List Turn) :
    (s.accept a rest turns).syncBuf = s.syncBuf := by cases a <;> rfl
@[simp] theorem State.accept_cfgStatus (s : State) (a : Agent) (rest : List Packet) (turns : List Turn) :
    (s.accept a rest turns).cfgStatus = s.cfgStatus := by cases a <;> rfl
@[simp] theorem State.accept_responses (s : State) (a : Agent) (rest : List Packet) (turns : List Turn) :
    (s.accept a rest turns).responses = s.responses := by cases a <;> rfl
@[simp] theorem State.accept_turns (s : State) (a : Agent) (rest : List Packet) (turns : List Turn) :
    (s.accept a rest turns).turns = turns := by cases a <;> rfl
@[simp] theorem State.accept_serving (s : State) (a : Agent) (rest : List Packet) (turns : List Turn) :
    (s.accept a rest turns).serving = a := by cases a <;> rfl
@[simp] theorem State.accept_waiting (s : State) (a : Agent) (rest : List Packet) (turns : List Turn) :
    (s.accept a rest turns).waiting a = rest := by cases a <;> rfl

/-! ## `resetOf` -/

@[simp] theorem State.resetOf_config (c : Config) : (State.resetOf c).config = c := rfl
@[simp] theorem State.resetOf_en (c : Config) : (State.resetOf c).en = List.replicate c.size false := rfl
@[simp] theorem State.resetOf_syncState (c : Config) : (State.resetOf c).syncState = .uninitialized := rfl
@[simp] theorem State.resetOf_syncBuf (c : Config) : (State.resetOf c).syncBuf = [] := rfl
@[simp] theorem State.resetOf_cfgStatus (c : Config) : (State.resetOf c).cfgStatus = checkCat c := rfl
@[simp] theorem State.resetOf_control (c : Config) : (State.resetOf c).control = [] := rfl
@[simp] theorem State.resetOf_worker (c : Config) : (State.resetOf c).worker = [] := rfl
@[simp] theorem State.resetOf_turns (c : Config) : (State.resetOf c).turns = [] := rfl
@[simp] theorem State.resetOf_responses (c : Config) : (State.resetOf c).responses = [] := rfl

/-! ## Compositions -/

/-- Writing a bit of EN twice is writing it once (R112: "no double count"). -/
theorem State.setEn_setEn (s : State) (i : Nat) (v : Bool) : (s.setEn i v).setEn i v = s.setEn i v := by
  simp [State.setEn]

/-- EN keeps its length. -/
theorem State.setEn_en_length (s : State) (i : Nat) (v : Bool) : (s.setEn i v).en.length = s.en.length := by simp

end Sys2Proof.Machine
end

