-- ==== Sys2Proof/Laws/Ops.lean ====
section
/-! SUPPORT. Laws/Ops.lean: everything `operate`, `serve` and `step` can do, said once, and the operation each instruction
is. -/
namespace Sys2Proof.Machine

/-! ## `operate` -/

/-- In the configuration fault the fault is answered (R226). -/
theorem operate_of_fault {s : State} {id : Byte} (h : s.cfgStatus = .configFault id)
    (body : Except OpError (State × Bytes)) : operate s body = .next (s.answer [0x04#8, id]) := by
  simp [operate, h, raise, errorResponse, errorStatus, errorInfo]

/-- READY, and the body answers (R18). -/
theorem operate_of_ok {s t : State} {payload : Bytes} (h : s.cfgStatus = .ready) :
    operate s (.ok (t, payload)) = .next (t.answer (0x00#8 :: payload)) := by
  simp [operate, h, respond, statusOk]

/-- READY, and the body raises (R18, R222). -/
theorem operate_of_error {s : State} {r : OpError} (h : s.cfgStatus = .ready) :
    operate s (.error r) = .next (s.answer (errorResponse r)) := by
  simp [operate, h, raise]

/-- Everything an operation can do: the fault's answer, the body's, or the error's. -/
theorem operate_cases {s t : State} {body : Except OpError (State × Bytes)} (h : operate s body = .next t) :
    (∃ id, s.cfgStatus = .configFault id ∧ t = s.answer [0x04#8, id]) ∨
    (s.cfgStatus = .ready ∧ ∃ u payload, body = .ok (u, payload) ∧ t = u.answer (0x00#8 :: payload)) ∨
    (s.cfgStatus = .ready ∧ ∃ r, body = .error r ∧ t = s.answer (errorResponse r)) := by
  cases hs : s.cfgStatus with
  | configFault id =>
    rw [operate_of_fault hs] at h
    exact .inl ⟨id, rfl, (Host.Outcome.next.inj h).symm⟩
  | ready =>
    cases body with
    | ok p =>
      rw [operate_of_ok hs] at h
      exact .inr (.inl ⟨rfl, p.1, p.2, rfl, (Host.Outcome.next.inj h).symm⟩)
    | error r =>
      rw [operate_of_error hs] at h
      exact .inr (.inr ⟨rfl, r, rfl, (Host.Outcome.next.inj h).symm⟩)

/-- An operation always answers a next state. -/
theorem operate_next (s : State) (body : Except OpError (State × Bytes)) : ∃ t, operate s body = .next t := by
  cases hs : s.cfgStatus with
  | configFault id => exact ⟨_, operate_of_fault hs body⟩
  | ready =>
    cases body with
    | ok p => exact ⟨_, operate_of_ok hs⟩
    | error r => exact ⟨_, operate_of_error hs⟩

/-- An error response starts with a status of 1 to 7 (R220). -/
theorem errorStatus_range (r : OpError) : 1 ≤ (errorStatus r).toNat ∧ (errorStatus r).toNat ≤ 7 := by
  cases r <;> simp [errorStatus]

/-! ## The operation of each instruction -/

theorem exec_enable (id : Byte) (v : Bool) (s : State) : exec (.enable id v) s = operate s
    (if id.toNat < s.config.size then .ok (s.setEn id.toNat v, []) else .error (.unknownParameterIdentifier id)) := rfl

theorem exec_enumAll (s : State) : exec .enumAll s = operate s
    (.ok (s, BitVec.ofNat 8 s.config.size :: (idList s.config).map (BitVec.ofNat 8))) := rfl

theorem exec_enumEnabled (s : State) : exec .enumEnabled s = operate s
    (.ok (s, BitVec.ofNat 8 (enabledIds s).length :: (enabledIds s).map (BitVec.ofNat 8))) := rfl

theorem exec_countEnabled (s : State) : exec .countEnabled s = operate s
    (.ok (s, [BitVec.ofNat 8 ((idList s.config).countP (enBit s))])) := rfl

theorem exec_lookupId (id : Byte) (s : State) : exec (.lookupId id) s = operate s
    (match entryAt s.config id with
    | some e => .ok (s, desc e)
    | none => .error (.unknownParameterIdentifier id)) := rfl

theorem exec_lookupReg (b : Byte) (s : State) : exec (.lookupReg b) s = operate s
    (.ok (s, presentBytes (revmap s.config b))) := rfl

theorem exec_extract (id : Byte) (frame : Bytes) (s : State) : exec (.extract id frame) s = operate s
    (match rawOf s.config id frame with
    | .ok (_, raw) => .ok (s, be16 raw.toNat)
    | .error r => .error r) := rfl

theorem exec_value (id : Byte) (frame : Bytes) (s : State) : exec (.value id frame) s = operate s
    (match rawOf s.config id frame with
    | .ok (e, raw) => .ok (s, be64 (scaleValue e raw.toNat))
    | .error r => .error r) := rfl

theorem exec_scan (needle buffer : Bytes) (s : State) : exec (.scan needle buffer) s = operate s
    (.ok (s, flagByte (scanMatch buffer needle).1 ::
      (be16 (scanMatch buffer needle).2.length ++ (scanMatch buffer needle).2))) := rfl

theorem exec_buildCmd (ids : Bytes) (s : State) : exec (.buildCmd ids) s = operate s
    (countedPayload s (buildCommand s.config ids)) := rfl

theorem exec_parseCmd (bytes : Bytes) (s : State) : exec (.parseCmd bytes) s = operate s
    (countedPayload s (parseCommand s.config bytes)) := rfl

theorem exec_decodeFrame (frame : Bytes) (s : State) : exec (.decodeFrame frame) s = operate s
    (match valuesOf s.config frame (enabledIds s) with
    | .ok out => .ok (s, BitVec.ofNat 8 out.length :: out.flatMap pairBytes)
    | .error r => .error r) := rfl

theorem exec_syncPush (chunk : Bytes) (s : State) : exec (.syncPush chunk) s = operate s (pushBody s chunk) := rfl

theorem exec_syncStatus (s : State) : exec .syncStatus s = operate s
    (.ok (s, syncStateByte s.syncState :: (be16 s.syncBuf.length ++ s.syncBuf))) := rfl

/-- A wire token is one operation: the push of its bytes. -/
theorem exec_wire (i : Instr) (s : State) (h : i.isWire = true) : exec i s = operate s (pushBody s (encode i)) := by
  cases i <;> first | rfl | simp [Instr.isWire] at h

/-! ## `serve` and `step` -/

/-- Everything that can become of an accepted packet (R230). -/
theorem serve_cases (p : Packet) (s : State) :
    (∃ id, s.cfgStatus = .configFault id ∧ serve p s = .next (s.answer [0x04#8, id])) ∨
    (s.cfgStatus = .ready ∧ ∃ r, decode s.config p = .error r ∧
      serve p s = .next (s.answer (errorResponse (rejectError r)))) ∨
    (s.cfgStatus = .ready ∧ ∃ i, decode s.config p = .ok i ∧ serve p s = exec i s) := by
  cases hs : s.cfgStatus with
  | configFault id =>
    exact .inl ⟨id, rfl, by simp [serve, hs, raise, errorResponse, errorStatus, errorInfo]⟩
  | ready =>
    cases hd : decode s.config p with
    | error r => exact .inr (.inl ⟨rfl, r, rfl, by simp [serve, hs, hd, raise]⟩)
    | ok i => exact .inr (.inr ⟨rfl, i, rfl, by simp [serve, hs, hd]⟩)

/-- Everything a step of a CFD can do: wait, reset, let a turn pass, or serve the first packet of the agent whose turn it
is. -/
theorem step_cases (s : State) (h : configWf s.config = true) :
    (s.turns = [] ∧ step s = .next s) ∨
    (∃ turns, s.turns = .reset :: turns ∧ step s = .next (State.afterReset { s with turns := turns })) ∨
    (∃ a turns, s.turns = .agent a :: turns ∧ s.waiting a = [] ∧ step s = .next { s with turns := turns }) ∨
    (∃ a turns p rest, s.turns = .agent a :: turns ∧ s.waiting a = p :: rest ∧
      step s = serve p (s.accept a rest turns)) := by
  cases ht : s.turns with
  | nil => exact .inl ⟨rfl, by simp [step, h, ht]⟩
  | cons turn turns =>
    cases turn with
    | reset => exact .inr (.inl ⟨turns, rfl, by simp [step, h, ht]⟩)
    | agent a =>
      cases hw : s.waiting a with
      | nil => exact .inr (.inr (.inl ⟨a, turns, rfl, hw, by simp [step, h, ht, hw]⟩))
      | cons p rest => exact .inr (.inr (.inr ⟨a, turns, p, rest, rfl, hw, by simp [step, h, ht, hw]⟩))

end Sys2Proof.Machine
end

