-- ==== Sys2Proof/Laws/PerInstr.lean ====
section
/-! SUPPORT. Laws/PerInstr.lean: the per-instruction family PacketBound: the packet of an instruction a CFD can carry is not
empty and is bounded by the configuration (spec/30_encoding.md R81, R84; spec/60_exceptions.md R244 (e)). -/
namespace Sys2Proof.Laws

open Sys2Proof.Machine

/-- The encoding has at least one byte and at most `4 + NEEDLE_MAX + LIST_MAX`. -/
def PacketBound.Statement (i : Instr) : Prop :=
  ∀ c : Config, i.wf c = true → 1 ≤ (encode i).length ∧ (encode i).length ≤ 4 + c.needleMax + c.listMax

theorem PacketBound.enable (id : Byte) (v : Bool) : PacketBound.Statement (.enable id v) := by
  intro c _; simp [encode]; omega
theorem PacketBound.enumAll : PacketBound.Statement .enumAll := by
  intro c _; simp [encode]; omega
theorem PacketBound.enumEnabled : PacketBound.Statement .enumEnabled := by
  intro c _; simp [encode]; omega
theorem PacketBound.countEnabled : PacketBound.Statement .countEnabled := by
  intro c _; simp [encode]; omega
theorem PacketBound.lookupId (id : Byte) : PacketBound.Statement (.lookupId id) := by
  intro c _; simp [encode]; omega
theorem PacketBound.lookupReg (b : Byte) : PacketBound.Statement (.lookupReg b) := by
  intro c _; simp [encode]; omega
theorem PacketBound.extract (id : Byte) (frame : Bytes) : PacketBound.Statement (.extract id frame) := by
  intro c h; simp [Instr.wf, listFits] at h; simp [encode, encodeList, be16]; omega
theorem PacketBound.value (id : Byte) (frame : Bytes) : PacketBound.Statement (.value id frame) := by
  intro c h; simp [Instr.wf, listFits] at h; simp [encode, encodeList, be16]; omega
theorem PacketBound.scan (needle buffer : Bytes) : PacketBound.Statement (.scan needle buffer) := by
  intro c h; simp [Instr.wf, listFits, needleFits] at h; simp [encode, encodeList, be16]; omega
theorem PacketBound.buildCmd (ids : Bytes) : PacketBound.Statement (.buildCmd ids) := by
  intro c h; simp [Instr.wf, listFits] at h; simp [encode, encodeList, be16]; omega
theorem PacketBound.parseCmd (bytes : Bytes) : PacketBound.Statement (.parseCmd bytes) := by
  intro c h; simp [Instr.wf, listFits] at h; simp [encode, encodeList, be16]; omega
theorem PacketBound.decodeFrame (frame : Bytes) : PacketBound.Statement (.decodeFrame frame) := by
  intro c h; simp [Instr.wf, listFits] at h; simp [encode, encodeList, be16]; omega
theorem PacketBound.syncPush (chunk : Bytes) : PacketBound.Statement (.syncPush chunk) := by
  intro c h; simp [Instr.wf, listFits] at h; simp [encode, encodeList, be16]; omega
theorem PacketBound.syncStatus : PacketBound.Statement .syncStatus := by
  intro c _; simp [encode]; omega
theorem PacketBound.wireMarkerPair (r : Byte) : PacketBound.Statement (.wireMarkerPair r) := by
  intro c _; simp [encode]; omega
theorem PacketBound.wireStreamStart : PacketBound.Statement .wireStreamStart := by
  intro c _; simp [encode]; omega
theorem PacketBound.wireInit : PacketBound.Statement .wireInit := by
  intro c _; simp [encode, Config.initMarker]; omega
theorem PacketBound.wireInitResponse : PacketBound.Statement .wireInitResponse := by
  intro c _; simp [encode]; omega
theorem PacketBound.wireStreamStop : PacketBound.Statement .wireStreamStop := by
  intro c _; simp [encode]; omega
theorem PacketBound.wireStopAck : PacketBound.Statement .wireStopAck := by
  intro c _; simp [encode]; omega

end Sys2Proof.Laws
end

