-- ==== Sys2Proof/Laws/Scanner.lean ====
section
/-! SUPPORT. Laws/Scanner.lean: what the two halves of SCAN_MATCH find. -/
namespace Sys2Proof

open Sys2Proof.Machine

/-- What `afterFirst` finds is the first occurrence (R141). -/
theorem firstOccurrence_of_afterFirst {needle buf after : Bytes} (h : afterFirst needle buf = some after) :
    ∃ before, FirstOccurrence needle buf before after := by
  induction buf with
  | nil =>
    simp only [afterFirst] at h
    split at h
    · rename_i hp
      have hn : needle = [] := by simpa using hp
      subst hn
      cases h
      exact ⟨[], by simp, by simp⟩
    · cases h
  | cons b rest ih =>
    simp only [afterFirst] at h
    split at h
    · rename_i hp
      obtain ⟨t, ht⟩ := List.isPrefixOf_iff_prefix.mp hp
      refine ⟨[], ?_, by simp⟩
      have h' := Option.some.inj h
      rw [← ht, List.drop_left] at h'
      simp [← ht, h']
    · rename_i hp
      obtain ⟨before, hw, hmin⟩ := ih h
      refine ⟨b :: before, by simp [hw], ?_⟩
      intro before' after' heq
      cases before' with
      | nil =>
        exact absurd (List.isPrefixOf_iff_prefix.mpr ⟨after', by simpa using heq.symm⟩) hp
      | cons x before' =>
        have := hmin before' after' (by simpa using (List.cons.inj heq).2)
        simpa using this

/-- When `afterFirst` finds nothing there is no occurrence. -/
theorem noOccurrence_of_afterFirst {needle buf : Bytes} (h : afterFirst needle buf = none) :
    NoOccurrence needle buf := by
  induction buf with
  | nil =>
    intro before after heq
    simp only [afterFirst] at h
    have : needle = [] := by simp_all
    simp [this] at h
  | cons b rest ih =>
    simp only [afterFirst] at h
    split at h
    · cases h
    · rename_i hp
      intro before after heq
      cases before with
      | nil => exact hp (List.isPrefixOf_iff_prefix.mpr ⟨after, by simpa using heq.symm⟩)
      | cons x before => exact ih h before after (by simpa using (List.cons.inj heq).2)

/-- What `partialSuffix` keeps is a suffix that is a proper prefix of the needle, or nothing (R142). -/
theorem partialSuffix_partial (needle buf : Bytes) (h : needle ≠ []) :
    PartialMatch needle buf (partialSuffix needle buf) := by
  induction buf with
  | nil => exact ⟨List.suffix_refl _, List.nil_prefix, by simpa [partialSuffix] using List.length_pos_of_ne_nil h⟩
  | cons b rest ih =>
    simp only [partialSuffix]
    split
    · rename_i hp
      exact ⟨List.suffix_refl _, List.isPrefixOf_iff_prefix.mp hp.2, hp.1⟩
    · exact ⟨ih.1.trans (List.suffix_cons b rest), ih.2⟩

/-- It is the longest one (R142). -/
theorem partialSuffix_longest {needle buf other : Bytes} (h : PartialMatch needle buf other) :
    other.length ≤ (partialSuffix needle buf).length := by
  induction buf with
  | nil => simp [List.suffix_nil.mp h.1]
  | cons b rest ih =>
    simp only [partialSuffix]
    split
    · exact h.1.length_le
    · rename_i hp
      rcases List.suffix_cons_iff.mp h.1 with heq | hs
      · subst heq
        exact absurd ⟨h.2.2, List.isPrefixOf_iff_prefix.mpr h.2.1⟩ hp
      · exact ih ⟨hs, h.2⟩

end Sys2Proof
end

