-- ==== Sys2Proof/Tests/Slice0.lean ====
section
/-! SUPPORT. Tests/Slice0.lean: the model's own tests. Expected values are the vectors of spec/95_test_vectors.md (named V-…),
the worked examples of the rules, or words written out from spec/30_encoding.md; and for each statement with hypotheses a
witness that meets them. -/
namespace Sys2Proof.Tests

open Sys2Proof.Machine

/-! ## Helpers -/

/-- The last response in the state an outcome leaves. -/
def lastAnswer : Host.Outcome State Fault Refusal → Option Bytes
  | .next t => t.responses.getLast?.map Answer.bytes
  | .fault _ => none
  | .refused _ => none

/-- SYNC_STATE and SYNC_BUF an outcome leaves. -/
def syncOf : Host.Outcome State Fault Refusal → Option (SyncState × Bytes)
  | .next t => some (t.syncState, t.syncBuf)
  | .fault _ => none
  | .refused _ => none

/-- EXCAT after reset with these enable bits. -/
def enabled (en : List Bool) : State := { State.reset with en := en }

/-- EXCAT with the synchronizer in this state. -/
def syncing (st : SyncState) (buf : Bytes) : State := { State.reset with syncState := st, syncBuf := buf }

/-- EXCAT with one packet waiting at the control agent and one at the worker agent. -/
def waiting (p q : Packet) (turns : List Turn) : State := { State.reset with control := [p], worker := [q], turns := turns }

/-- DUPCAT (spec/95_test_vectors.md 0.2). -/
def dupcat : Config := { Config.excat with
  cat := Config.excatEntries ++ [⟨.bit 0x13#8 4#8, 0x3FF0000000000000#64, 0#64, [0x64#8, 0x75#8, 0x70#8], []⟩] }

/-- EXCAT with the MAF entries at these two variants. -/
def withMaf (v rh : Variant) : Config := { Config.excat with
  cat := Config.excatEntries ++ [⟨v, 0#64, 0#64, nameMafVoltage, []⟩, ⟨rh, 0#64, 0#64, nameMafVoltageRh, []⟩] }

/-- A catalog with the MAF entries of R110 added to EXCAT, at the registers the source names. -/
def mafcat : Config := withMaf (.single 0x06#8) (.single 0x07#8)

/-- F20 (spec/95_test_vectors.md 0.3). -/
def f20 : Bytes :=
  [0x01#8, 0xF4#8, 0#8, 0#8, 0x12#8, 0x34#8, 0#8, 0#8, 0x5A#8] ++ List.replicate 10 0#8 ++ [0x10#8]

/-! ## WellFormed smoke: an ill-formed term for each check is refused -/

theorem test_wf_list_too_long : ∀ i ∈ [Instr.extract 0#8 (List.replicate 512 0#8), .value 0#8 (List.replicate 512 0#8),
    .scan [0x5A#8] (List.replicate 512 0#8), .buildCmd (List.replicate 512 0#8), .parseCmd (List.replicate 512 0#8),
    .decodeFrame (List.replicate 512 0#8), .syncPush (List.replicate 512 0#8)], i.wf Config.excat = false := by decide +kernel
theorem test_wf_empty_needle : Instr.wf Config.excat (.scan [] []) = false := by decide
theorem test_wf_long_needle : Instr.wf Config.excat (.scan (List.replicate 17 0#8) []) = false := by decide

/-! ## Configurations (R11, R104, R106 to R110) -/

theorem test_excat_is_a_cfd : configWf Config.excat = true ∧ checkCat Config.excat = .ready := by decide
theorem test_dupcat_fault : configWf dupcat = true ∧ checkCat dupcat = .configFault 6#8 := by decide
/-- R110: shared registers are refused, under one key, under two, and as the second register of a Dual. -/
theorem test_aliased_maf_refused : configWf mafcat = true ∧
    ∀ c ∈ [withMaf (.single 0x06#8) (.single 0x06#8), withMaf (.single 0x06#8) (.dual 0x06#8 0x07#8),
      withMaf (.dual 0x06#8 0x07#8) (.bit 0x07#8 0#8)], configWf c = false := by decide
theorem test_pinned_entries : configPinned mafcat = true ∧ configPinned Config.excat = false := by decide
/-- EXCAT's entry 2 gives neither scale nor offset (R101, R108). -/
theorem test_default_scale_offset : Config.excat.cat[2]? = some (defineEntry (.bit 0x13#8 4#8) none none nameAcOn []) := by decide
theorem test_frame_length : frameLen Config.excat = 84 := by decide
theorem test_config_bounds_refused : ∀ c ∈ [{ Config.excat with cat := [] }, { Config.excat with listMax := 510 },
    { Config.excat with needleMax := 2 }, { Config.excat with syncBufCap := 512 }, { Config.excat with syncBufCap := 65536 }],
    configWf c = false := by decide
theorem test_config_entries_refused : ∀ e ∈ [Entry.mk (.dual 1#8 1#8) 0#64 0#64 [] [], ⟨.bit 1#8 8#8, 0#64, 0#64, [], []⟩,
    ⟨.single 1#8, 0x7FF0000000000000#64, 0#64, [], []⟩, ⟨.single 1#8, 0#64, 0x7FF8000000000000#64, [], []⟩,
    ⟨.dual 0#8 1#8, 0x7FE0000000000000#64, 0#64, [], []⟩], entryWf e = false := by decide
theorem test_descriptor_variant_refused : readVariant 3#8 0#8 0#8 0#8 = none ∧ readVariant 0#8 1#8 1#8 0#8 = none ∧
    readVariant 2#8 1#8 0#8 8#8 = none := by decide

/-! ## Decoding: words written out from R81, R83, R91, R92 -/

theorem test_decode_enable : decode Config.excat (.request [0b00000001#8, 0b00000011#8, 0b00000001#8]) = .ok (.enable 3#8 true) := by decide
theorem test_decode_no_operands : decode Config.excat (.request [0b00000010#8]) = .ok .enumAll ∧
    decode Config.excat (.request [0b00000011#8]) = .ok .enumEnabled ∧
    decode Config.excat (.request [0b00000100#8]) = .ok .countEnabled ∧
    decode Config.excat (.request [0b01010001#8]) = .ok .syncStatus := by decide
theorem test_decode_lookup : decode Config.excat (.request [0b00000101#8, 0xFF#8]) = .ok (.lookupId 0xFF#8) ∧
    decode Config.excat (.request [0b00000110#8, 0x53#8]) = .ok (.lookupReg 0x53#8) := by decide
theorem test_decode_extract : decode Config.excat (.request [0b00010000#8, 4#8, 0#8, 1#8, 0xAA#8]) = .ok (.extract 4#8 [0xAA#8]) := by decide
theorem test_decode_value : decode Config.excat (.request [0b00010001#8, 4#8, 0#8, 1#8, 0xAA#8]) = .ok (.value 4#8 [0xAA#8]) := by decide
theorem test_decode_scan : decode Config.excat (.request [0b00100000#8, 2#8, 0x5A#8, 0x01#8, 0#8, 1#8, 0x5A#8])
    = .ok (.scan [0x5A#8, 0x01#8] [0x5A#8]) := by decide
theorem test_decode_lists : decode Config.excat (.request [0b00110000#8, 0#8, 1#8, 7#8]) = .ok (.buildCmd [7#8]) ∧
    decode Config.excat (.request [0b00110001#8, 0#8, 1#8, 7#8]) = .ok (.parseCmd [7#8]) ∧
    decode Config.excat (.request [0b01000000#8, 0#8, 1#8, 7#8]) = .ok (.decodeFrame [7#8]) ∧
    decode Config.excat (.request [0b01010000#8, 0#8, 1#8, 7#8]) = .ok (.syncPush [7#8]) := by decide
theorem test_decode_long_length : decode Config.excat (.request (0x50#8 :: 0x01#8 :: 0xFF#8 :: List.replicate 511 0#8))
    = .ok (.syncPush (List.replicate 511 0#8)) := by decide +kernel
theorem test_decode_wire_tokens : decode Config.excat (.wire [0b01011010#8, 0x13#8]) = .ok (.wireMarkerPair 0x13#8) ∧
    decode Config.excat (.wire [0b11110000#8]) = .ok .wireStreamStart ∧
    decode Config.excat (.wire [0b11111111#8, 0b11111111#8, 0b11101111#8]) = .ok .wireInit ∧
    decode Config.excat (.wire [0b00010000#8]) = .ok .wireInitResponse ∧
    decode Config.excat (.wire [0b00110000#8]) = .ok .wireStreamStop ∧
    decode Config.excat (.wire [0b11001111#8]) = .ok .wireStopAck := by decide
/-- V-ERR-1 to V-ERR-9, V-CAT-26, V-SCAN-15: what the decoder refuses. -/
theorem test_decode_rejects : decode Config.excat (.request []) = .error .malformedRequest ∧
    decode Config.excat (.request [0x07#8, 1#8, 2#8]) = .error (.illegalOperation 0x07#8) ∧
    decode Config.excat (.request [0x01#8, 9#8, 2#8]) = .error .malformedRequest ∧
    decode Config.excat (.request [0x40#8, 0#8, 2#8, 1#8]) = .error .malformedRequest ∧
    decode Config.excat (.request [0x40#8, 2#8, 0#8]) = .error .malformedRequest ∧
    decode Config.excat (.request [0x30#8, 0#8]) = .error .malformedRequest ∧
    decode Config.excat (.request [0x04#8, 0#8]) = .error .malformedRequest ∧
    decode Config.excat (.request [0x20#8, 0#8, 0#8, 0#8]) = .error .malformedRequest := by decide
/-- Encodings of V-CAT-12, V-SYNC-8 and P6 step 1 (R95). -/
theorem test_encode_pseudo_operations : encode (disable 3#8) = [0x01#8, 0x03#8, 0x00#8] ∧
    encode syncPoll = [0x50#8, 0x00#8, 0x00#8] ∧
    encode (scanInit [0x00#8, 0xFF#8]) = [0x20#8, 0x03#8, 0xFF#8, 0xFF#8, 0xEF#8, 0x00#8, 0x02#8, 0x00#8, 0xFF#8] := by decide
/-- Words of the opcode table, in its numbering. -/
theorem test_table_words : decodeTableWord 24 0x010301 = some (.enable 3#8 true) ∧ decodeTableWord 8 0x10 = some (.extract 0#8 []) ∧
    decodeTableWord 8 0x30 = some (.buildCmd []) ∧ decodeTableWord 16 0x1306 = some (.lookupReg 0x13#8) ∧
    decodeTableWord 8 0x20 = none ∧ decodeTableWord 16 0x0120 = some (.scan [0#8] []) ∧ decodeTableWord 16 0x015A = some (.wireMarkerPair 1#8) ∧
    decodeTableWord 24 0xFFFFEF = some .wireInit ∧ decodeTableWord 8 0xCF = some .wireStopAck := by decide

/-! ## Meanings: one step each -/

/-- V-CAT-4, V-CAT-9. -/
theorem test_enable : lastAnswer (exec (.enable 0#8 true) State.reset) = some [0x00#8] ∧
    lastAnswer (exec (.enable 6#8 true) State.reset) = some [0x01#8, 0x06#8] := by decide
/-- V-CAT-1. -/
theorem test_enumAll : lastAnswer (exec .enumAll State.reset) = some [0#8, 6#8, 0#8, 1#8, 2#8, 3#8, 4#8, 5#8] := by decide
/-- V-CAT-8. -/
theorem test_enumEnabled : lastAnswer (exec .enumEnabled (enabled [true, false, false, true, false, false]))
    = some [0x00#8, 0x02#8, 0x00#8, 0x03#8] := by decide
/-- R115, example. -/
theorem test_countEnabled : lastAnswer (exec .countEnabled (enabled [true, false, false, true, false, false]))
    = some [0x00#8, 0x02#8] := by decide
/-- V-CAT-15, V-CAT-17. -/
theorem test_lookupId : lastAnswer (exec (.lookupId 2#8) State.reset) = some
    [0x00#8, 0x02#8, 0x13#8, 0x00#8, 0x04#8, 0x3F#8, 0xF0#8, 0#8, 0#8, 0#8, 0#8, 0#8, 0#8, 0#8, 0#8, 0#8, 0#8, 0#8, 0#8, 0#8, 0#8,
     0x06#8, 0x41#8, 0x2F#8, 0x43#8, 0x20#8, 0x4F#8, 0x6E#8, 0x00#8] := by decide
/-- V-CAT-22, V-CAT-19. -/
theorem test_lookupReg_first : lastAnswer (exec (.lookupReg 0x13#8) State.reset) = some [0x00#8, 0x01#8, 0x02#8] ∧
    lastAnswer (exec (.lookupReg 0x00#8) State.reset) = some [0x00#8, 0x00#8, 0x00#8] := by decide
/-- V-CAT-25. -/
theorem test_lookupReg_last : lastAnswer (exec (.lookupReg 0x13#8) (State.resetOf { Config.excat with revmapRule := .last }))
    = some [0x00#8, 0x01#8, 0x03#8] := by decide
/-- V-PAR-15, V-PAR-8, V-PAR-3. -/
theorem test_extract : lastAnswer (exec (.extract 4#8 f20) State.reset) = some [0x00#8, 0x12#8, 0x34#8] ∧
    lastAnswer (exec (.extract 2#8 f20) State.reset) = some [0x00#8, 0x00#8, 0x01#8] ∧
    lastAnswer (exec (.extract 0#8 [0x01#8]) State.reset) = some [0x03#8, 0x00#8, 0x01#8] := by decide
/-- V-PAR-6. -/
theorem test_value_dual : lastAnswer (exec (.value 0#8 [0xFF#8, 0xFF#8]) State.reset)
    = some [0x00#8, 0x41#8, 0x28#8, 0xFF#8, 0xE7#8, 0x00#8, 0x00#8, 0x00#8, 0x00#8] := by decide
/-- V-PAR-13. -/
theorem test_value_offset : lastAnswer (exec (.value 1#8 f20) State.reset)
    = some [0x00#8, 0x40#8, 0x44#8, 0x00#8, 0x00#8, 0x00#8, 0x00#8, 0x00#8, 0x00#8] := by decide
/-- V-SCAN-5, V-SCAN-2 (conflict C1). -/
theorem test_scan_partial : lastAnswer (exec (.scan [0xFF#8, 0xFF#8, 0xEF#8] [0x00#8, 0xFF#8, 0xFF#8]) State.reset)
      = some [0x00#8, 0x00#8, 0x00#8, 0x02#8, 0xFF#8, 0xFF#8] ∧
    lastAnswer (exec (.scan [0xFF#8, 0xFF#8, 0xEF#8] [0xFF#8, 0xEF#8]) State.reset) = some [0#8, 0#8, 0#8, 0#8] := by decide
/-- V-SCAN-1. -/
theorem test_scan_found : lastAnswer (exec (.scan [0xFF#8, 0xFF#8, 0xEF#8] [0xFF#8, 0xFF#8, 0xFF#8, 0xEF#8]) State.reset)
    = some [0x00#8, 0x01#8, 0x00#8, 0x00#8] := by decide
/-- V-CMD-3, V-CMD-5. -/
theorem test_buildCmd : lastAnswer (exec (.buildCmd [2#8, 0#8, 2#8]) State.reset)
      = some [0x00#8, 0x00#8, 0x07#8, 0x5A#8, 0x13#8, 0x5A#8, 0x01#8, 0x5A#8, 0x13#8, 0xF0#8] ∧
    lastAnswer (exec (.buildCmd [0#8, 6#8, 7#8]) State.reset) = some [0x01#8, 0x06#8] := by decide
/-- V-CMD-13, V-CMD-17. -/
theorem test_parseCmd : lastAnswer (exec (.parseCmd [0x5A#8, 0x01#8, 0xF0#8, 0x00#8, 0x77#8]) State.reset)
      = some [0x00#8, 0x00#8, 0x01#8, 0x00#8] ∧
    lastAnswer (exec (.parseCmd [0x5A#8, 0x01#8, 0x5A#8, 0x30#8, 0xF0#8]) State.reset) = some [0x02#8, 0x30#8] := by decide
/-- V-DEC-3. -/
theorem test_decode_frame : lastAnswer (exec (.decodeFrame [0x01#8, 0xF4#8]) (enabled [true, false, false, false, false, false]))
    = some [0x00#8, 0x01#8, 0x00#8, 0x40#8, 0xB8#8, 0x6A#8, 0x00#8, 0x00#8, 0x00#8, 0x00#8, 0x00#8] := by decide
/-- V-DEC-7. -/
theorem test_decode_frame_fails : lastAnswer (exec (.decodeFrame [0x01#8, 0xF4#8]) (enabled [true, false, true, true, false, false]))
    = some [0x03#8, 0x02#8, 0x13#8] := by decide
/-- V-SYNC-6. -/
theorem test_push_completes_init : syncOf (exec (.syncPush [0xEF#8, 0x5A#8, 0x13#8]) (syncing .uninitialized [0xFF#8, 0xFF#8]))
    = some (.initialized, [0x5A#8, 0x13#8]) := by decide
/-- V-SYNC-10. -/
theorem test_push_dispatches :
    lastAnswer (exec (.syncPush [0x01#8, 0x5A#8, 0x02#8, 0x5A#8, 0x03#8]) (syncing .initialized [0x00#8, 0x5A#8]))
      = some [0x00#8, 0x01#8, 0x01#8, 0x01#8] ∧
    syncOf (exec (.syncPush [0x01#8, 0x5A#8, 0x02#8, 0x5A#8, 0x03#8]) (syncing .initialized [0x00#8, 0x5A#8]))
      = some (.initialized, [0x5A#8, 0x02#8, 0x5A#8, 0x03#8]) := by decide
/-- V-SYNC-21. -/
theorem test_push_overflow : lastAnswer (exec (.syncPush [0x00#8]) (syncing .initialized (List.replicate 513 0#8))) = some [0x07#8] := by
  decide +kernel
/-- V-SYNC-7. -/
theorem test_syncStatus : lastAnswer (exec .syncStatus (syncing .initialized [0x5A#8, 0x13#8]))
    = some [0x00#8, 0x01#8, 0x00#8, 0x02#8, 0x5A#8, 0x13#8] := by decide
/-- The pair of V-SYNC-8; in UNINITIALIZED V-SYNC-3. -/
theorem test_wire_marker_pair : lastAnswer (exec (.wireMarkerPair 0x13#8) (syncing .initialized [])) = some [0#8, 1#8, 1#8, 0x13#8] ∧
    syncOf (exec (.wireMarkerPair 0x01#8) State.reset) = some (.uninitialized, []) := by decide
/-- V-SYNC-18. -/
theorem test_wire_init : syncOf (exec .wireInit State.reset) = some (.initialized, []) := by decide
/-- The trailing 0xF0 of P2 stays held (R204). -/
theorem test_wire_stream_start : syncOf (exec .wireStreamStart (syncing .initialized [])) = some (.initialized, [0xF0#8]) := by decide
/-- R92: 0x30 is dispatched only after a 0x5A (V-SYNC-17). -/
theorem test_wire_stream_stop : lastAnswer (exec .wireStreamStop (syncing .initialized [0x5A#8])) = some [0#8, 1#8, 1#8, 0x30#8] := by decide
theorem test_wire_init_response : syncOf (exec .wireInitResponse State.reset) = some (.uninitialized, []) := by decide
theorem test_wire_stop_ack : syncOf (exec .wireStopAck (syncing .initialized [])) = some (.initialized, [0xCF#8]) := by decide

/-! ## The port -/

/-- V-ERR-11: the fault comes before decoding. -/
theorem test_step_fault : lastAnswer (step { State.resetOf dupcat with worker := [.request []], turns := [.agent .worker] })
    = some [0x04#8, 0x06#8] := by decide
/-- V-ERR-2, through the fetch of a table word. -/
theorem test_step_illegal : lastAnswer (step (State.reset.withFetchWord 8 0x00)) = some [0x05#8, 0x00#8] := by decide
theorem test_step_table_word : lastAnswer (step (State.reset.withFetchWord 24 0xFFFFEF)) = some [0x00#8, 0x01#8, 0x00#8, 0x00#8] := by decide
/-- P5 step 6: a reset finds the same fault again. -/
theorem test_step_reset : step { State.resetOf dupcat with turns := [.reset] } = .next (State.resetOf dupcat) := by rfl

/-! ## Numbers: BE64 patterns of spec/95_test_vectors.md 0.4 and the cases of R126 -/

theorem test_f64_products : f64Mul (f64OfNat 500) 0x4029000000000000#64 = 0x40B86A0000000000#64 ∧
    f64Mul (f64OfNat 65535) 0x4029000000000000#64 = 0x4128FFE700000000#64 ∧
    f64Mul (f64OfNat 3) 0x3FE0000000000000#64 = 0x3FF8000000000000#64 := by decide
/-- R126 (f): 0 times a negative scale is -0.0; plus +0.0 is +0.0; plus -0.0 is -0.0. -/
theorem test_f64_zero_sign : f64Mul (f64OfNat 0) 0xBFF0000000000000#64 = 0x8000000000000000#64 ∧
    f64Add 0x8000000000000000#64 0#64 = 0#64 ∧ f64Add 0x8000000000000000#64 0x8000000000000000#64 = 0x8000000000000000#64 := by decide
/-- A tie goes to the even neighbour: (2^53 + 2) / 2 added to a half unit, both ways, and 0.1 + 0.2 (IEEE 754-2008). -/
theorem test_f64_ties : f64Add 0x4340000000000000#64 0x3FF0000000000000#64 = 0x4340000000000000#64 ∧
    f64Add 0x4340000000000001#64 0x3FF0000000000000#64 = 0x4340000000000002#64 ∧
    f64Add 0x3FB999999999999A#64 0x3FC999999999999A#64 = 0x3FD3333333333334#64 := by decide

/-! ## Witnesses: concrete states and operands that meet the hypotheses of each statement -/

theorem inv_reset : Inv State.reset := ⟨by decide, by decide, by decide, by decide, by decide⟩

theorem witness_ResetSetsEveryElement : configWf State.reset.config = true ∧
    ({ enabled (List.replicate 6 true) with turns := [.reset] } : State).turns = .reset :: [] := by decide
theorem witness_CatalogCheckNamesFirstDuplicate : dupcat.cat.length ≤ 255 ∧ 6 < dupcat.cat.length ∧ checkCat dupcat = .configFault 6#8 := by decide
theorem witness_IllFormedConfigurationIsRefused : ¬ IsCfd { Config.excat with cat := [] } ∧
    step State.reset = .next State.reset := ⟨fun h => absurd h.atLeastOneEntry (by decide), rfl⟩
/-- A configuration that meets every condition of `IsCfd`: A/C On alone. -/
theorem witness_isCfd : IsCfd { Config.excat with cat := [⟨.bit 0x13#8 4#8, 0x3FF0000000000000#64, 0#64, nameAcOn, []⟩] } where
  atLeastOneEntry := by decide
  atMost255Entries := by decide
  listMaxLow := by decide
  listMaxHigh := by decide
  needleMaxLow := by decide
  needleMaxHigh := by decide
  syncBufCapLow := by decide
  syncBufCapHigh := by decide
  entries := by
    intro e he
    obtain rfl := List.mem_singleton.mp he
    refine ⟨?_, (fun _ _ h => by cases h), by decide, by decide, (fun _ h => by cases h), (fun _ _ h => by cases h), ?_,
      by decide, by decide⟩
    · rintro _ _ ⟨⟩
      decide
    · intro _ _ _ raw hraw
      obtain rfl | rfl : raw = 0 ∨ raw = 1 := by omega
      · decide
      · decide
  mafRegistersDistinct := by decide
theorem witness_PinnedEntriesAreServed : (State.resetOf mafcat).cfgStatus = .ready ∧ configWf (State.resetOf mafcat).config = true ∧
    configPinned (State.resetOf mafcat).config = true := by decide
theorem witness_EndpointCheckCoversEveryRawValue : entryWf ⟨.dual 0#8 1#8, 0x4029000000000000#64, 0#64, [], []⟩ = true ∧
    65535 ≤ maxRaw ⟨.dual 0#8 1#8, 0x4029000000000000#64, 0#64, [], []⟩ := by decide
theorem witness_DescriptorReadsBack : variantWf (.bit 0x13#8 7#8) = true ∧ nameAcOn.length ≤ 255 ∧ (List.replicate 255 0#8).length ≤ 255 := by
  decide +kernel
theorem witness_WrittenWordsDecode : 2 ≤ Config.excat.listMax ∧ 3 ≤ Config.excat.needleMax := by decide
theorem witness_DecodeOfEncodeIsIdentity : configWf Config.excat = true ∧
    Instr.wf Config.excat (.scan (List.replicate 16 0#8) (List.replicate 511 0#8)) = true := by decide +kernel
theorem witness_RequestDecodingIsExact : configWf Config.excat = true ∧
    decode Config.excat (.request [0x01#8, 0x03#8, 0x01#8]) = .ok (.enable 3#8 true) := by decide
theorem witness_ReservedOperandValuesAreMalformed : configWf Config.excat = true ∧ (1#8).toNat = [0x5A#8].length ∧ (2#8 ≠ 0#8 ∧ 2#8 ≠ 1#8) ∧ Config.excat.needleMax < (17#8).toNat ∧
    Config.excat.listMax < (2#8).toNat * 256 + (0#8).toNat := by decide
theorem witness_PacketFieldsAreBigEndian : 65535 < 65536 ∧ be16 65535 = [0xFF#8, 0xFF#8] := by decide
theorem witness_StepRunsDecodedInstruction :
    let s := waiting (.request [0x51#8]) (.wire [0xF0#8]) [.agent .control]
    let t := waiting (.request [0x51#8]) (.wire [0xF0#8]) [.agent .worker]
    configWf s.config = true ∧ s.cfgStatus = .ready ∧ decode s.config (.request [0x51#8]) = .ok .syncStatus ∧
    s.turns = .agent .control :: [] ∧ s.control = .request [0x51#8] :: [] ∧
    decode t.config (.wire [0xF0#8]) = .ok .wireStreamStart ∧ t.turns = .agent .worker :: [] ∧ t.worker = .wire [0xF0#8] :: [] := by decide
theorem witness_RejectedPacketsAreAnswered :
    let s := waiting (.request [0xFF#8]) (.request []) [.agent .control]
    let t := waiting (.request [0xFF#8]) (.request []) [.agent .worker]
    configWf s.config = true ∧ s.cfgStatus = .ready ∧ decode s.config (.request [0xFF#8]) = .error (.illegalOperation 0xFF#8) ∧
    s.turns = .agent .control :: [] ∧ s.control = .request [0xFF#8] :: [] ∧
    decode t.config (.request []) = .error .malformedRequest ∧ t.turns = .agent .worker :: [] ∧ t.worker = .request [] :: [] := by decide
theorem inv_dupcat : Inv (State.resetOf dupcat) := ⟨by decide, by decide, by decide, by decide, by decide⟩
theorem witness_ConfigurationFaultAnswersEverything :
    let s : State := { State.resetOf dupcat with control := [.request []], worker := [.wire []], turns := [.agent .worker] }
    s.cfgStatus = .configFault 6#8 ∧ configWf s.config = true ∧ s.turns = .agent .worker :: [] ∧ s.worker = .wire [] :: [] ∧
    step (State.resetOf dupcat) = .next (State.resetOf dupcat) := ⟨by decide, by decide, rfl, rfl, rfl⟩
theorem witness_EveryRequestIsAnsweredOnce :
    let s := waiting (.request []) (.request []) [.agent .control, .agent .worker]
    configWf s.config = true ∧ s.turns = .agent .control :: [.agent .worker] ∧ s.control = .request [] :: [] := by decide
theorem witness_AgentMakesNoDifference : configWf State.reset.config = true := by decide
theorem witness_EveryRunOfACfdGoesOn : configWf (State.resetOf dupcat).config = true := by decide
theorem witness_EnableWritesItsBit : State.reset.cfgStatus = .ready ∧ (5#8).toNat < State.reset.config.cat.length ∧
    State.reset.config.cat.length ≤ (6#8).toNat := by decide
theorem witness_ready : State.reset.cfgStatus = .ready := by decide
theorem witness_EnabledParametersAreListedAndCounted : State.reset.cfgStatus = .ready ∧
    (enabled [true, false, false, false, false, true]).en.length = State.reset.config.cat.length := by decide
theorem witness_CountLaw : State.reset.cfgStatus = .ready ∧ State.reset.config.cat.length ≤ 255 := by decide
theorem witness_LookupIdAnswersDescriptor : (State.reset.config.cat[(1#8).toNat]?).map Entry.variant = some (.single 0x08#8) ∧
    (State.reset.config.cat[(0#8).toNat]?).map Entry.variant = some (.dual 0x00#8 0x01#8) ∧
    (State.reset.config.cat[(2#8).toNat]?).map Entry.variant = some (.bit 0x13#8 4#8) ∧
    State.reset.config.cat.length ≤ (6#8).toNat := by decide
theorem witness_LookupRegAnswersReverseMap : (∀ e ∈ Config.excat.cat, canon e ≠ 0x00#8) ∧
    (Config.excat.cat[2]?).map canon = some 0x13#8 ∧ Config.excat.revmapRule = .first ∧
    (∀ j < 2, (Config.excat.cat[j]?).map canon ≠ some 0x13#8) ∧
    (Config.excat.cat[3]?).map canon = some 0x13#8 ∧ ({ Config.excat with revmapRule := .last } : Config).revmapRule = .last ∧
    (∀ j < 6, 3 < j → (Config.excat.cat[j]?).map canon ≠ some 0x13#8) := by decide
theorem witness_CanonicalAddressingLaw : configWf State.reset.config = true ∧ State.reset.cfgStatus = .ready ∧
    (State.reset.config.cat[0]?).map Entry.variant = some (.dual 0x00#8 0x01#8) ∧
    (∀ j < 6, (State.reset.config.cat[j]?).map canon = some 0x01#8 → j = 0) := by decide
theorem witness_ExtractAnswersRawValue : (State.reset.config.cat[(4#8).toNat]?).map Entry.variant = some (.dual 0x04#8 0x05#8) ∧
    f20[(0x04#8).toNat]? = some 0x12#8 ∧ f20[(0x05#8).toNat]? = some 0x34#8 ∧
    (State.reset.config.cat[(1#8).toNat]?).map Entry.variant = some (.single 0x08#8) ∧ f20[(0x08#8).toNat]? = some 0x5A#8 ∧
    (State.reset.config.cat[(2#8).toNat]?).map Entry.variant = some (.bit 0x13#8 4#8) ∧ f20[(0x13#8).toNat]? = some 0x10#8 := by decide
theorem witness_FrameReadsAreBoundsChecked : State.reset.config.cat.length ≤ (6#8).toNat ∧
    (State.reset.config.cat[(0#8).toNat]?).map Entry.variant = some (.dual 0x00#8 0x01#8) ∧ ([] : Bytes).length ≤ (0x00#8).toNat ∧
    (0x00#8).toNat < [0x01#8].length ∧ [0x01#8].length ≤ (0x01#8).toNat ∧
    (State.reset.config.cat[(5#8).toNat]?).map Entry.variant = some (.single 0x53#8) ∧ f20.length ≤ (0x53#8).toNat ∧
    (State.reset.config.cat[(3#8).toNat]?).map Entry.variant = some (.bit 0x13#8 3#8) ∧ (List.replicate 19 0#8).length ≤ (0x13#8).toNat := by decide
theorem witness_rounding : f64IsFinite 0x7FEFFFFFFFFFFFFF#64 = true ∧ f64IsFinite 0x8000000000000001#64 = true ∧
    f64IsFinite (f64Mul 0x7FEFFFFFFFFFFFFF#64 0x7FEFFFFFFFFFFFFF#64) = false := by decide +kernel
theorem witness_NaturalConversionIsExact : 2 ^ 53 - 1 < 2 ^ 53 ∧ f64OfNat (2 ^ 53 - 1) = 0x433FFFFFFFFFFFFF#64 := by decide
theorem witness_IdentityScalingIsExact : (Entry.mk (.single 0#8) 0x3FF0000000000000#64 0#64 [] []).scale = 0x3FF0000000000000#64 ∧
    65535 < 65536 := by decide
theorem witness_RepresentableScalingIsExact : f64IsFinite 0x3FF0000000000000#64 = true ∧ f64IsFinite 0#64 = true ∧
    f64Value 0#64 = ((0 : Nat) : ℚ) * f64Value 0x3FF0000000000000#64 ∧ f64Value 0#64 = f64Value 0#64 + f64Value 0#64 := by
  refine ⟨by decide, by decide, ?_, ?_⟩ <;> norm_num [f64Value, f64Class, f64Exponent, f64Fraction]
theorem witness_EngineSpeedVector : State.reset.config.cat[(0#8).toNat]?
    = some ⟨.dual 0x00#8 0x01#8, 0x4029000000000000#64, 0#64, nameEngineSpeedHr, []⟩ := by decide
theorem witness_scan_found : FirstOccurrence [0x5A#8] [0x5A#8, 0x13#8] [] [0x13#8] := ⟨rfl, fun _ _ _ => Nat.zero_le _⟩
theorem witness_scan_partial : NoOccurrence [0xFF#8, 0xFF#8, 0xEF#8] [0x12#8, 0xFF#8] ∧ [0xFF#8] ≠ [] ∧
    PartialMatch [0xFF#8, 0xFF#8, 0xEF#8] [0x12#8, 0xFF#8] [0xFF#8] ∧
    ∀ other, PartialMatch [0xFF#8, 0xFF#8, 0xEF#8] [0x12#8, 0xFF#8] other → other.length ≤ [0xFF#8].length :=
  ⟨noOccurrence_of_afterFirst (by decide), by decide, partialSuffix_partial [0xFF#8, 0xFF#8, 0xEF#8] [0x12#8, 0xFF#8] (by decide),
    fun _ h => partialSuffix_longest h⟩
theorem witness_scan_none : NoOccurrence [0x5A#8] [0x01#8] ∧ ∀ suffix, PartialMatch [0x5A#8] [0x01#8] suffix → suffix = [] :=
  ⟨noOccurrence_of_afterFirst (by decide), fun _ h => List.eq_nil_of_length_eq_zero (Nat.le_zero.mp (partialSuffix_longest h))⟩
theorem witness_ScannerFragmentLaw : [0xFF#8, 0xFF#8, 0xEF#8] ≠ [] ∧ scanMatch [0x00#8, 0xFF#8] [0xFF#8, 0xFF#8, 0xEF#8] = (false, [0xFF#8]) := by decide
theorem witness_BuildCmdEmitsPairsInOrder : [0#8, 5#8].map (fun id => Config.excat.cat[id.toNat]?)
      = (Config.excat.cat.filter fun e => canon e == 0x01#8 || canon e == 0x53#8).map some ∧
    [0#8, 6#8, 7#8] = [0#8] ++ 6#8 :: [7#8] ∧ Config.excat.cat.length ≤ (6#8).toNat ∧ ∀ x ∈ [0#8], x.toNat < Config.excat.cat.length := by decide
theorem witness_ParseCmdResolvesInOrder : [0x01#8, 0x30#8] = ([0x5A#8, 0x01#8, 0x30#8, 0xF0#8, 0x77#8].takeWhile fun b => b != 0xF0#8).filter (fun b => b != 0x5A#8) ∧
    [0x01#8].map (revmap Config.excat) = [0#8].map some ∧ revmap Config.excat 0x30#8 = none ∧ ∀ x ∈ [0x01#8], revmap Config.excat x ≠ none := by decide
theorem witness_CommandRoundTripLaw : State.reset.cfgStatus = .ready ∧ [4#8, 5#8, 1#8].length ≤ State.reset.config.listMax ∧
    ∀ id ∈ [4#8, 5#8, 1#8], ∃ e, State.reset.config.cat[id.toNat]? = some e ∧ revmap State.reset.config (canon e) = some id ∧
      canon e ≠ 0x5A#8 ∧ canon e ≠ 0xF0#8 := by
  refine ⟨by decide, by decide, ?_⟩
  simp only [List.mem_cons, List.not_mem_nil, or_false, forall_eq_or_imp, forall_eq]
  exact ⟨⟨_, rfl, by decide, by decide, by decide⟩, ⟨_, rfl, by decide, by decide, by decide⟩, ⟨_, rfl, by decide, by decide, by decide⟩⟩
theorem witness_DecodeAnswersEveryEnabledValue :
    let s := enabled [true, false, false, false, false, false]
    s.cfgStatus = .ready ∧ s.config.cat.length ≤ 255 ∧
    ∀ p ∈ s.en.zip s.config.cat, p.1 = true → ∀ r ∈ regs p.2, r.toNat < [0x01#8, 0xF4#8].length := by decide
theorem witness_DecodeFailsWhole :
    let s := enabled [true, false, true, true, false, false]
    (List.range s.config.cat.length).filter (fun i => s.en[i]? == some true) = [0] ++ 2 :: [3] ∧
    (∀ j ∈ [0], (s.config.cat[j]?).map (fun f => (regs f).all fun r => r.toNat < [0x01#8, 0xF4#8].length) = some true) ∧
    (s.config.cat[2]?).map (fun e => (regs e).any fun r => [0x01#8, 0xF4#8].length ≤ r.toNat) = some true := by decide
theorem witness_DecodeReadsEnabledRegistersOnly : ∀ r ∈ [0x00#8, 0x01#8], [0x01#8, 0xF4#8][r.toNat]? = f20[r.toNat]? := by decide
theorem witness_push_uninitialized_found : State.reset.cfgStatus = .ready ∧ State.reset.syncState = .uninitialized ∧
    2 ≤ State.reset.config.syncBufCap ∧
    FirstOccurrence [0xFF#8, 0xFF#8, 0xEF#8] (State.reset.syncBuf ++ [0xFF#8, 0xFF#8, 0xEF#8, 0x5A#8]) [] [0x5A#8] :=
  ⟨by decide, rfl, by decide, rfl, fun _ _ _ => Nat.zero_le _⟩
theorem witness_push_uninitialized_kept : NoOccurrence [0xFF#8, 0xFF#8, 0xEF#8] ((syncing .uninitialized [0xFF#8]).syncBuf ++ [0xFF#8]) ∧
    [0xFF#8, 0xFF#8] <:+ (syncing .uninitialized [0xFF#8]).syncBuf ++ [0xFF#8] ∧
    (NoOccurrence [0xFF#8, 0xFF#8, 0xEF#8] [0x12#8, 0xFF#8] ∧ [0xFF#8] <:+ [0x12#8, 0xFF#8] ∧ ¬ [0xFF#8, 0xFF#8] <:+ [0x12#8, 0xFF#8]) ∧
    NoOccurrence [0xFF#8, 0xFF#8, 0xEF#8] [0x12#8] ∧ ¬ [0xFF#8] <:+ [0x12#8] :=
  ⟨noOccurrence_of_afterFirst (by decide), by decide, ⟨noOccurrence_of_afterFirst (by decide), by decide, by decide⟩,
    noOccurrence_of_afterFirst (by decide), by decide⟩
theorem witness_push_initialized : (syncing .initialized [0x00#8]).syncState = .initialized ∧
    (syncing .initialized [0x00#8]).syncBuf ++ [0x5A#8, 0x07#8] = [0x00#8] ++ 0x5A#8 :: 0x07#8 :: [] ∧ 0x5A#8 ∉ [0x00#8] ∧
    513 < (List.replicate 514 0#8).length := by decide +kernel
theorem witness_push_initialized_no_pair : ∀ (before after : Bytes) (c : Byte),
    (syncing .initialized [0x00#8]).syncBuf ++ [0x5A#8] ≠ before ++ 0x5A#8 :: c :: after := by
  intro before after c h
  rcases before with _ | ⟨x, _ | ⟨y, t⟩⟩ <;> simp [syncing] at h
theorem witness_UninitializedPushNeverOverflows : Inv State.reset ∧ State.reset.cfgStatus = .ready ∧
    (List.replicate 511 0#8).length ≤ State.reset.config.listMax := ⟨inv_reset, by decide, by decide +kernel⟩
theorem witness_InitializedIsKeptUntilReset : (syncing .initialized []).syncState = .initialized ∧
    step (syncing .initialized []) = .next (syncing .initialized []) ∧ ∀ turns, (syncing .initialized []).turns ≠ .reset :: turns :=
  ⟨rfl, rfl, fun _ h => by cases h⟩
theorem witness_ResynchronizationLaw : configWf Config.excat = true ∧ checkCat Config.excat = .ready ∧
    ∃ t, execAll ([[0x00#8, 0xFF#8], [0xFF#8, 0xEF#8, 0x5A#8]].map .syncPush) (State.resetOf Config.excat) = .next t ∧
      (∀ a ∈ t.responses, a.bytes.head? = some 0x00#8) ∧
      ¬ [0xFF#8, 0xFF#8, 0xEF#8] <:+: [[0x00#8, 0xFF#8]].flatten ∧
      [0xFF#8, 0xFF#8, 0xEF#8] <:+: [[0x00#8, 0xFF#8], [0xFF#8, 0xEF#8, 0x5A#8]].flatten :=
  ⟨by decide, by decide, _, rfl, by decide, by decide, by decide⟩
theorem witness_HeldCommandsDrainInOrder : (syncing .initialized [0x5A#8, 0x02#8, 0x5A#8, 0x5A#8]).syncBuf
      = [0x02#8, 0x5A#8].flatMap (fun c => [0x5A#8, c]) ∧
    (syncing .initialized [0x5A#8, 0x02#8, 0x5A#8, 0x5A#8]).syncBuf.length ≤ State.reset.config.syncBufCap := by decide
theorem witness_WireTokensAtTheSynchronizer : State.reset.cfgStatus = .ready ∧ 3 ≤ State.reset.config.syncBufCap ∧
    (Instr.wireStreamStop, 0x30#8) ∈ [(Instr.wireStreamStart, 0xF0#8), (.wireInitResponse, 0x10#8), (.wireStreamStop, 0x30#8), (.wireStopAck, 0xCF#8)] ∧
    State.reset.syncState = .uninitialized ∧ State.reset.syncBuf = [] ∧
    0x5A#8 ∉ (syncing .initialized [0x11#8]).syncBuf ∧ (syncing .initialized [0x11#8]).syncBuf.length < State.reset.config.syncBufCap ∧
    (syncing .initialized [0x11#8, 0x5A#8]).syncBuf = [0x11#8] ++ [0x5A#8] ∧
    (syncing .uninitialized [0xFF#8, 0xFF#8]).syncBuf ∈ [[], [0xFF#8], [0xFF#8, 0xFF#8]] := by decide
theorem witness_CodecBuildsAndParsesWireTokens : (State.reset.config.cat[(0#8).toNat]?).map canon = some 0x01#8 ∧
    0x01#8 ≠ 0x5A#8 ∧ 0x01#8 ≠ 0xF0#8 ∧ revmap State.reset.config 0x01#8 = some 0#8 := by decide
theorem witness_ErrorsLeaveNothingBehind : ∃ t, exec (.enable 6#8 true) State.reset = .next t ∧ lastAnswer (.next t) = some [0x01#8, 0x06#8] ∧
    lastAnswer (serve (.request []) State.reset) = some [0x06#8] :=
  ⟨_, rfl, by decide, by decide⟩
theorem witness_ReadsAndEnableAreIdempotent : Instr.isWire (.enable 0#8 true) = false ∧ (∀ chunk, Instr.enable 0#8 true ≠ .syncPush chunk) ∧
    ∃ t, exec (.enable 0#8 true) State.reset = .next t := ⟨rfl, (fun _ h => by cases h), _, rfl⟩
theorem witness_ResetEstablishesTheInvariant : configWf dupcat = true := by decide
theorem witness_StepKeepsTheInvariant : Inv State.reset ∧ ∃ t, step (State.reset.withFetchWord 8 0x51) = .next t := ⟨inv_reset, _, rfl⟩

end Sys2Proof.Tests
end

section
/-! Binary64 rounding is monotone (R19): the magnitude field as a rounding of a rational, and what follows for the product and
the sum the scaler makes of finite patterns. -/
namespace Sys2Proof.Machine

/-! ## Rounding as a relation on rationals -/

/-- `r` is `y` rounded to the nearest natural, a tie to the even one (R19). -/
structure NearestEven (y : ℚ) (r : Nat) : Prop where
  upper : (r : ℚ) ≤ y + 1 / 2
  lower : y ≤ r + 1 / 2
  even : (r : ℚ) = y + 1 / 2 ∨ y = r + 1 / 2 → r % 2 = 0

/-- A natural is its own rounding. -/
theorem NearestEven.self (n : Nat) : NearestEven n n :=
  ⟨by linarith, by linarith, by rintro (h | h) <;> linarith⟩

/-- Rounding to a natural is monotone: two roundings in the wrong order would be the two neighbours of one tie. -/
theorem NearestEven.mono {x y : ℚ} {a b : Nat} (ha : NearestEven x a) (hb : NearestEven y b) (h : x ≤ y) : a ≤ b := by
  by_contra! hlt
  have hcast : (b : ℚ) + 1 ≤ a := by exact_mod_cast hlt
  have hau := ha.upper
  have hbl := hb.lower
  have hae : a % 2 = 0 := ha.even (.inl (by linarith))
  have hbe : b % 2 = 0 := hb.even (.inr (by linarith))
  have hab : a = b + 1 := by exact_mod_cast (by linarith : (a : ℚ) = b + 1)
  omega

/-- `roundShift m k` is `m / 2^k` rounded. -/
theorem roundShift_nearestEven (m k : Nat) : NearestEven ((m : ℚ) / 2 ^ k) (roundShift m k) := by
  obtain ⟨hupper, hlower, heven⟩ := roundShift_bounds m k
  have hpow : (0 : ℚ) < 2 ^ k := by positivity
  have hm : (m : ℚ) / 2 ^ k * 2 ^ k = m := div_mul_cancel₀ _ hpow.ne'
  have hu : 2 * ((roundShift m k : ℚ) * 2 ^ k) ≤ 2 * m + 2 ^ k := by exact_mod_cast hupper
  have hl : 2 * (m : ℚ) ≤ 2 * (roundShift m k * 2 ^ k) + 2 ^ k := by exact_mod_cast hlower
  refine ⟨le_of_mul_le_mul_right ?_ hpow, le_of_mul_le_mul_right ?_ hpow, fun h => heven (h.imp (fun h => ?_) fun h => ?_)⟩
  · linarith
  · linarith
  · have : 2 * ((roundShift m k : ℚ) * 2 ^ k) = 2 * m + 2 ^ k := by rw [h, add_mul, hm]; ring
    exact_mod_cast this
  · have : 2 * (m : ℚ) = 2 * (roundShift m k * 2 ^ k) + 2 ^ k := by rw [← hm, h]; ring
    exact_mod_cast this

/-- `mag` is the magnitude field (bits 62..0, with no upper bound) of the non-negative `x` rounded to binary64 (R19, R89):
`x` is `y` units of the quantum `2^(k - 1074)`, `y` is rounded to a natural, and outside the least quantum `y` has 53
significant bits. -/
def RoundsToMag (x : ℚ) (mag : Nat) : Prop :=
  ∃ (k r : Nat) (y : ℚ), x = y * 2 ^ ((k : ℤ) - 1074) ∧ mag = k * 2 ^ 52 + r ∧ NearestEven y r ∧ y < 2 ^ 53 ∧
    (k = 0 ∨ 2 ^ 52 ≤ y)

/-- What a larger quantum holds is larger. -/
theorem lt_of_quantum_lt {y y' : ℚ} {k k' : Nat} (hk : k < k') (hy : y < 2 ^ 53) (hy' : 2 ^ 52 ≤ y') :
    y * 2 ^ ((k : ℤ) - 1074) < y' * 2 ^ ((k' : ℤ) - 1074) := by
  calc y * 2 ^ ((k : ℤ) - 1074) < 2 ^ 53 * 2 ^ ((k : ℤ) - 1074) := by gcongr
    _ = 2 ^ 52 * 2 ^ ((k : ℤ) + 1 - 1074) := by
      rw [show (k : ℤ) + 1 - 1074 = (k : ℤ) - 1074 + 1 by ring, zpow_add_one₀ (by norm_num)]; ring
    _ ≤ y' * 2 ^ ((k' : ℤ) - 1074) := by
      have hexp : (k : ℤ) + 1 - 1074 ≤ (k' : ℤ) - 1074 := by omega
      have hzpow : (2 : ℚ) ^ ((k : ℤ) + 1 - 1074) ≤ 2 ^ ((k' : ℤ) - 1074) := zpow_le_zpow_right₀ (by norm_num) hexp
      gcongr

/-- Rounding to binary64 is monotone in the magnitude (R19). -/
theorem RoundsToMag.mono {x x' : ℚ} {mag mag' : Nat} (h : RoundsToMag x mag) (h' : RoundsToMag x' mag') (hx : x ≤ x') :
    mag ≤ mag' := by
  obtain ⟨k, r, y, rfl, rfl, hr, hy, hk⟩ := h
  obtain ⟨k', r', y', rfl, rfl, hr', hy', hk'⟩ := h'
  obtain hlt | rfl | hgt := lt_trichotomy k k'
  · have hr53 : r ≤ 2 ^ 53 := hr.mono (NearestEven.self (2 ^ 53)) (by exact_mod_cast hy.le)
    have hr52 : 2 ^ 52 ≤ r' := (NearestEven.self (2 ^ 52)).mono hr' (by exact_mod_cast hk'.resolve_left (by omega))
    omega
  · have hyy : y ≤ y' := le_of_mul_le_mul_right hx (by positivity)
    have := hr.mono hr' hyy
    omega
  · exact absurd hx (not_le.mpr (lt_of_quantum_lt hgt hy' (hk.resolve_left (by omega))))

/-- A number that is not zero holds at most 53 significant bits in its quantum, and all 53 above the least one. -/
theorem f64Quantum_bounds {m : Nat} (hm : m ≠ 0) (e : ℤ) :
    (m : ℚ) * 2 ^ (e - f64Quantum m e) < 2 ^ 53 ∧
      (f64Quantum m e = -1074 ∨ (2 : ℚ) ^ 52 ≤ m * 2 ^ (e - f64Quantum m e)) := by
  have hlow : ((2 ^ Nat.log2 m : Nat) : ℚ) ≤ m := by exact_mod_cast Nat.log2_self_le hm
  have hhigh : (m : ℚ) < ((2 ^ (Nat.log2 m + 1) : Nat) : ℚ) := by exact_mod_cast Nat.lt_log2_self
  rw [Nat.cast_pow, Nat.cast_two, ← zpow_natCast] at hlow hhigh
  have hq : f64Quantum m e = max (e + (Nat.log2 m : ℤ) - 52) (-1074) := rfl
  constructor
  · calc (m : ℚ) * 2 ^ (e - f64Quantum m e)
        < 2 ^ ((Nat.log2 m + 1 : ℕ) : ℤ) * 2 ^ (e - f64Quantum m e) := by gcongr
      _ = 2 ^ (((Nat.log2 m + 1 : ℕ) : ℤ) + (e - f64Quantum m e)) := (zpow_add₀ (by norm_num) _ _).symm
      _ ≤ 2 ^ (53 : ℤ) := zpow_le_zpow_right₀ (by norm_num) (by omega)
      _ = 2 ^ 53 := by norm_num
  · by_cases hleast : f64Quantum m e = -1074
    · exact .inl hleast
    · right
      calc (2 : ℚ) ^ 52 = 2 ^ (52 : ℤ) := by norm_num
        _ = 2 ^ ((Nat.log2 m : ℤ) + (e - f64Quantum m e)) := by congr 1; omega
        _ = 2 ^ (Nat.log2 m : ℤ) * 2 ^ (e - f64Quantum m e) := zpow_add₀ (by norm_num) _ _
        _ ≤ m * 2 ^ (e - f64Quantum m e) := by gcongr

/-- The significand `f64Round` packs is the number of quanta rounded: exact when no bit is dropped. -/
theorem f64Round_significand (neg : Bool) {m : Nat} (hm : m ≠ 0) (e : ℤ) :
    ∃ r, NearestEven (m * 2 ^ (e - f64Quantum m e)) r ∧
      f64Round neg m e = f64Pack neg ((f64Quantum m e + 1074).toNat * 2 ^ 52 + r) := by
  by_cases hqe : f64Quantum m e ≤ e
  · have hexact : (m : ℚ) * 2 ^ (e - f64Quantum m e) = ((m * 2 ^ (e - f64Quantum m e).toNat : ℕ) : ℚ) := by
      rw [Nat.cast_mul, Nat.cast_pow, Nat.cast_two, ← zpow_natCast, Int.toNat_of_nonneg (by omega)]
    exact ⟨_, hexact ▸ NearestEven.self _, by rw [f64Round, if_neg hm, if_pos hqe]⟩
  · have hshift : (m : ℚ) * 2 ^ (e - f64Quantum m e) = m / 2 ^ (f64Quantum m e - e).toNat := by
      rw [← zpow_natCast, Int.toNat_of_nonneg (by omega), div_eq_mul_inv, ← zpow_neg, neg_sub]
    exact ⟨_, hshift ▸ roundShift_nearestEven _ _, by rw [f64Round, if_neg hm, if_neg hqe]⟩

/-- `f64Round` packs the rounded magnitude. -/
theorem f64Round_eq_pack (neg : Bool) (m : Nat) (e : ℤ) :
    ∃ mag, RoundsToMag (m * 2 ^ e) mag ∧ f64Round neg m e = f64Pack neg mag := by
  by_cases hm : m = 0
  · have hzero : NearestEven 0 0 := by exact_mod_cast NearestEven.self 0
    exact ⟨0, ⟨0, 0, 0, by simp [hm], rfl, hzero, by norm_num, .inl rfl⟩, by simp [f64Round, hm]⟩
  · obtain ⟨r, hr, hround⟩ := f64Round_significand neg hm e
    obtain ⟨hhigh, hlow⟩ := f64Quantum_bounds hm e
    have hge : -1074 ≤ f64Quantum m e := le_max_right _ _
    refine ⟨_, ⟨(f64Quantum m e + 1074).toNat, r, _, ?_, rfl, hr, hhigh, hlow.imp_left (by omega)⟩, hround⟩
    rw [mul_assoc, ← zpow_add₀ (by norm_num)]
    congr 2
    omega

/-! ## Finite patterns -/

/-- The magnitude field of a pattern, bits 62..0 (R89). -/
def f64Mag (x : F64) : Nat := f64Exponent x * 2 ^ 52 + f64Fraction x

theorem f64IsFinite_iff (x : F64) : f64IsFinite x = true ↔ f64Mag x < 2047 * 2 ^ 52 := by
  rw [f64IsFinite, bne_iff_ne, f64Mag, f64Exponent, f64Fraction]
  omega

theorem f64Mag_pack {mag : Nat} (neg : Bool) (h : mag < 2047 * 2 ^ 52) : f64Mag (f64Pack neg mag) = mag := by
  rw [f64Mag, f64Exponent_pack, f64Fraction, f64Pack_toNat]
  cases neg <;> simp <;> omega

/-- The class of a finite pattern. -/
theorem f64Class_of_finite {x : F64} (h : f64IsFinite x = true) :
    ∃ m e, f64Class x = .finite (f64Neg x) m e := by
  have hexp : f64Exponent x ≠ 2047 := bne_iff_ne.mp h
  rw [f64Class, if_neg hexp]
  split
  · exact ⟨_, _, rfl⟩
  · exact ⟨_, _, rfl⟩

/-- A pattern that is not finite is no number or an infinity. -/
theorem f64Class_of_not_finite {x : F64} (h : ¬ f64IsFinite x = true) :
    f64Class x = .nan ∨ ∃ neg, f64Class x = .infinite neg := by
  have hexp : f64Exponent x = 2047 := not_not.mp (mt bne_iff_ne.mpr h)
  rw [f64Class, if_pos hexp]
  split
  · exact .inr ⟨_, rfl⟩
  · exact .inl rfl

theorem f64Value_of_class {x : F64} {neg : Bool} {m : Nat} {e : ℤ} (h : f64Class x = .finite neg m e) :
    f64Value x = (if neg then -1 else 1) * (m * 2 ^ e) := by
  simp only [f64Value, h, mul_assoc]

theorem abs_f64Value_of_class {x : F64} {neg : Bool} {m : Nat} {e : ℤ} (h : f64Class x = .finite neg m e) :
    |f64Value x| = m * 2 ^ e := by
  cases neg <;> simp [f64Value_of_class h]

/-- The value of a finite pattern has the pattern's sign. -/
theorem f64Value_eq_sign_mul_abs {x : F64} (h : f64IsFinite x = true) :
    f64Value x = (if f64Neg x then -1 else 1) * |f64Value x| := by
  obtain ⟨m, e, hclass⟩ := f64Class_of_finite h
  rw [abs_f64Value_of_class hclass, f64Value_of_class hclass]

/-- The magnitude of a finite pattern, by its fields (R89). -/
theorem abs_f64Value_eq {x : F64} (h : f64IsFinite x = true) :
    |f64Value x| = if f64Exponent x = 0 then (f64Fraction x : ℚ) * 2 ^ (-1074 : ℤ)
      else ((f64Fraction x + 2 ^ 52 : ℕ) : ℚ) * 2 ^ ((f64Exponent x : ℤ) - 1075) := by
  have hexp : f64Exponent x ≠ 2047 := bne_iff_ne.mp h
  by_cases h0 : f64Exponent x = 0
  · rw [if_pos h0]
    exact abs_f64Value_of_class (neg := f64Neg x) (by rw [f64Class, if_neg hexp, if_pos h0])
  · rw [if_neg h0]
    exact abs_f64Value_of_class (neg := f64Neg x) (by rw [f64Class, if_neg hexp, if_neg h0])

/-- A finite pattern is its own rounding. -/
theorem roundsToMag_self {x : F64} (h : f64IsFinite x = true) : RoundsToMag |f64Value x| (f64Mag x) := by
  have hfrac : f64Fraction x < 2 ^ 52 := Nat.mod_lt _ (by norm_num)
  by_cases h0 : f64Exponent x = 0
  · refine ⟨0, f64Fraction x, f64Fraction x, by rw [abs_f64Value_eq h, if_pos h0]; rfl, by rw [f64Mag, h0],
      NearestEven.self _, ?_, .inl rfl⟩
    exact_mod_cast hfrac.trans (by norm_num)
  · refine ⟨f64Exponent x - 1, f64Fraction x + 2 ^ 52, ((f64Fraction x + 2 ^ 52 : ℕ) : ℚ), ?_, by rw [f64Mag]; omega,
      NearestEven.self _, ?_, .inr ?_⟩
    · rw [abs_f64Value_eq h, if_neg h0, show ((f64Exponent x - 1 : ℕ) : ℤ) - 1074 = (f64Exponent x : ℤ) - 1075 by omega]
    · exact_mod_cast (by omega : f64Fraction x + 2 ^ 52 < 2 ^ 53)
    · exact_mod_cast Nat.le_add_left _ _

/-- Finite patterns are ordered in magnitude as their magnitude fields are. -/
theorem abs_f64Value_le {x y : F64} (hx : f64IsFinite x = true) (hy : f64IsFinite y = true) (h : f64Mag x ≤ f64Mag y) :
    |f64Value x| ≤ |f64Value y| := by
  by_contra! hlt
  have hmag : f64Mag x = f64Mag y := le_antisymm h ((roundsToMag_self hy).mono (roundsToMag_self hx) hlt.le)
  have hexp : f64Exponent x = f64Exponent y := by
    simp only [f64Mag, f64Fraction] at hmag
    omega
  have hfrac : f64Fraction x = f64Fraction y := by
    simp only [f64Mag, hexp] at hmag
    omega
  exact hlt.ne (by rw [abs_f64Value_eq hx, abs_f64Value_eq hy, hexp, hfrac])

/-! ## One rounding -/

theorem f64Neg_round (neg : Bool) (m : Nat) (e : ℤ) : f64Neg (f64Round neg m e) = neg := by
  obtain ⟨mag, -, heq⟩ := f64Round_eq_pack neg m e
  rw [heq, f64Neg_pack]

/-- What does not exceed a finite pattern's magnitude rounds to a finite pattern. -/
theorem f64IsFinite_round_of_le_value {y : F64} (hy : f64IsFinite y = true) {neg : Bool} {m : Nat} {e : ℤ}
    (h : (m : ℚ) * 2 ^ e ≤ |f64Value y|) : f64IsFinite (f64Round neg m e) = true := by
  obtain ⟨mag, hmag, heq⟩ := f64Round_eq_pack neg m e
  rw [heq, f64IsFinite_pack, decide_eq_true_iff]
  exact (hmag.mono (roundsToMag_self hy) h).trans_lt ((f64IsFinite_iff y).mp hy)

/-- Rounding is monotone in the magnitude (R19): below what rounds to a finite pattern all is finite, and no larger. -/
theorem f64Round_mono {neg neg' : Bool} {m m' : Nat} {e e' : ℤ} (h : (m : ℚ) * 2 ^ e ≤ m' * 2 ^ e')
    (hfin : f64IsFinite (f64Round neg' m' e') = true) :
    f64IsFinite (f64Round neg m e) = true ∧ |f64Value (f64Round neg m e)| ≤ |f64Value (f64Round neg' m' e')| := by
  obtain ⟨mag, hmag, heq⟩ := f64Round_eq_pack neg m e
  obtain ⟨mag', hmag', heq'⟩ := f64Round_eq_pack neg' m' e'
  rw [heq'] at hfin ⊢
  rw [heq]
  have hlt' : mag' < 2047 * 2 ^ 52 := by simpa only [f64IsFinite_pack, decide_eq_true_iff] using hfin
  have hle : mag ≤ mag' := hmag.mono hmag' h
  have hfin0 : f64IsFinite (f64Pack neg mag) = true := by
    rw [f64IsFinite_pack, decide_eq_true_iff]
    exact hle.trans_lt hlt'
  refine ⟨hfin0, abs_f64Value_le hfin0 hfin ?_⟩
  rwa [f64Mag_pack neg (hle.trans_lt hlt'), f64Mag_pack neg' hlt']

/-! ## The operations on finite patterns: the exact result, rounded once (R19) -/

theorem f64Mul_of_finite {a b : F64} (ha : f64IsFinite a = true) (hb : f64IsFinite b = true) :
    ∃ m e, f64Mul a b = f64Round (f64Neg a != f64Neg b) m e ∧ (m : ℚ) * 2 ^ e = |f64Value a| * |f64Value b| := by
  obtain ⟨m, e, hca⟩ := f64Class_of_finite ha
  obtain ⟨n, f, hcb⟩ := f64Class_of_finite hb
  refine ⟨m * n, e + f, by simp only [f64Mul, hca, hcb], ?_⟩
  rw [abs_f64Value_of_class hca, abs_f64Value_of_class hcb, zpow_add₀ (by norm_num)]
  push_cast
  ring

/-- `signedShift` scales a signed natural to a common power of two. -/
theorem signedShift_mul_zpow (neg : Bool) (m : Nat) {e g : ℤ} (h : g ≤ e) :
    (signedShift neg m (e - g).toNat : ℚ) * 2 ^ g = (if neg then -1 else 1) * (m * 2 ^ e) := by
  have hpow : (2 : ℚ) ^ (e - g).toNat * 2 ^ g = 2 ^ e := by
    rw [← zpow_natCast, Int.toNat_of_nonneg (by omega), ← zpow_add₀ (by norm_num), sub_add_cancel]
  cases neg <;> simp [signedShift, mul_assoc, hpow]

theorem f64AddFinite_eq_round (s : Bool) (m : Nat) (e : ℤ) (t : Bool) (n : Nat) (f : ℤ) :
    ∃ neg k g, f64AddFinite s m e t n f = f64Round neg k g ∧
      (k : ℚ) * 2 ^ g = |(if s then (-1 : ℚ) else 1) * (m * 2 ^ e) + (if t then -1 else 1) * (n * 2 ^ f)| := by
  have habs : ∀ (neg : Bool) (k : ℕ) (g : ℤ), |(if neg then -1 else 1) * ((k : ℚ) * 2 ^ g)| = k * 2 ^ g := by
    intro neg k g
    cases neg <;> simp
  by_cases hm : m = 0
  · by_cases hn : n = 0
    · exact ⟨s && t, 0, 0, by simp [f64AddFinite, f64Round, hm, hn], by simp [hm, hn]⟩
    · exact ⟨t, n, f, by simp [f64AddFinite, hm, hn], by rw [hm, Nat.cast_zero, zero_mul, mul_zero, zero_add, habs]⟩
  · by_cases hn : n = 0
    · exact ⟨s, m, e, by simp [f64AddFinite, hm, hn], by rw [hn, Nat.cast_zero, zero_mul, mul_zero, add_zero, habs]⟩
    · rw [← signedShift_mul_zpow s m (min_le_left e f), ← signedShift_mul_zpow t n (min_le_right e f), ← add_mul,
        ← Int.cast_add]
      simp only [f64AddFinite, hm, hn, and_self, if_false]
      split
      · rename_i hsum
        exact ⟨false, 0, 0, by simp [f64Round], by simp [hsum]⟩
      · refine ⟨_, _, _, rfl, ?_⟩
        rw [abs_mul, abs_of_pos (a := (2 : ℚ) ^ _) (by positivity), ← Int.cast_abs, Nat.cast_natAbs]

theorem f64Add_of_finite {a b : F64} (ha : f64IsFinite a = true) (hb : f64IsFinite b = true) :
    ∃ neg m e, f64Add a b = f64Round neg m e ∧ (m : ℚ) * 2 ^ e = |f64Value a + f64Value b| := by
  obtain ⟨m, e, hca⟩ := f64Class_of_finite ha
  obtain ⟨n, f, hcb⟩ := f64Class_of_finite hb
  obtain ⟨neg, k, g, hround, hval⟩ := f64AddFinite_eq_round (f64Neg a) m e (f64Neg b) n f
  refine ⟨neg, k, g, by simp only [f64Add, hca, hcb, hround], ?_⟩
  rw [hval, f64Value_of_class hca, f64Value_of_class hcb]

/-! ## No operation makes a finite result of an infinity or of what is no number -/

theorem f64IsFinite_infinity (neg : Bool) : f64IsFinite (f64Infinity neg) = false := by
  rw [f64Infinity, f64IsFinite_pack, decide_eq_false_iff_not]
  exact lt_irrefl _

theorem f64IsFinite_nan (a b : F64) : f64IsFinite (f64Nan a b) = false := by
  have hfield : ∀ x : F64, f64Exponent x = (x.extractLsb' 52 11).toNat := fun x => by
    rw [f64Exponent, BitVec.extractLsb'_toNat, Nat.shiftRight_eq_div_pow]
  have hones : (0x7FF8000000000000#64).extractLsb' 52 11 = BitVec.allOnes 11 := by decide
  rw [f64IsFinite, hfield, f64Nan, BitVec.extractLsb'_or, hones, BitVec.or_allOnes]
  rfl

/-- A finite sum has a finite first operand, when the second is finite. -/
theorem f64IsFinite_of_add {a b : F64} (hb : f64IsFinite b = true) (h : f64IsFinite (f64Add a b) = true) :
    f64IsFinite a = true := by
  obtain ⟨n, f, hcb⟩ := f64Class_of_finite hb
  by_contra ha
  obtain hnan | ⟨neg, hinf⟩ := f64Class_of_not_finite ha
  · have hadd : f64Add a b = f64Nan a b := by simp only [f64Add, hnan]
    rw [hadd, f64IsFinite_nan] at h
    exact Bool.false_ne_true h
  · have hadd : f64Add a b = f64Infinity neg := by simp only [f64Add, hinf, hcb]
    rw [hadd, f64IsFinite_infinity] at h
    exact Bool.false_ne_true h

/-! ## The operations are monotone where the scaler uses them -/

/-- A product by a fixed factor grows with the other factor's magnitude. -/
theorem f64Mul_mono {a a' b : F64} (ha : f64IsFinite a = true) (ha' : f64IsFinite a' = true) (hb : f64IsFinite b = true)
    (h : |f64Value a| ≤ |f64Value a'|) (hfin : f64IsFinite (f64Mul a' b) = true) :
    f64IsFinite (f64Mul a b) = true ∧ |f64Value (f64Mul a b)| ≤ |f64Value (f64Mul a' b)| := by
  obtain ⟨m, e, hround, hval⟩ := f64Mul_of_finite ha hb
  obtain ⟨m', e', hround', hval'⟩ := f64Mul_of_finite ha' hb
  rw [hround'] at hfin ⊢
  rw [hround]
  refine f64Round_mono ?_ hfin
  rw [hval, hval']
  gcongr

/-- A smaller first operand of the same sign keeps a sum finite: the sum lies between the larger one and the second
operand. -/
theorem f64IsFinite_add_of_le {a a' b : F64} (ha : f64IsFinite a = true) (ha' : f64IsFinite a' = true)
    (hb : f64IsFinite b = true) (hneg : f64Neg a = f64Neg a') (h : |f64Value a| ≤ |f64Value a'|)
    (hfin : f64IsFinite (f64Add a' b) = true) : f64IsFinite (f64Add a b) = true := by
  obtain ⟨neg, m, e, hround, hval⟩ := f64Add_of_finite ha hb
  obtain ⟨neg', m', e', hround', hval'⟩ := f64Add_of_finite ha' hb
  rw [hround'] at hfin
  rw [hround]
  have hbetween : |f64Value a + f64Value b| ≤ max |f64Value a' + f64Value b| |f64Value b| := by
    rw [f64Value_eq_sign_mul_abs ha, f64Value_eq_sign_mul_abs ha', hneg]
    have hnonneg := abs_nonneg (f64Value a)
    cases f64Neg a'
    · simp only [Bool.false_eq_true, if_false, one_mul]
      rw [max_comm]
      exact abs_le_max_abs_abs (by linarith) (by linarith)
    · simp only [if_true, neg_one_mul]
      exact abs_le_max_abs_abs (by linarith) (by linarith)
  rw [← hval, ← hval'] at hbetween
  obtain hsum | hsecond := le_max_iff.mp hbetween
  · exact (f64Round_mono hsum hfin).1
  · exact f64IsFinite_round_of_le_value hb hsecond

/-! ## The scaler -/

/-- R104 (f): a smaller raw value scales to a finite value where a larger one does (notes/assumptions/6.md). -/
theorem f64IsFinite_scaleValue_of_le {e : Entry} {raw top : Nat} (hscale : f64IsFinite e.scale = true)
    (hoffset : f64IsFinite e.offset = true) (htop : f64IsFinite (f64OfNat top) = true) (hraw : raw ≤ top)
    (h : f64IsFinite (scaleValue e top) = true) : f64IsFinite (scaleValue e raw) = true := by
  have hcast : (raw : ℚ) * 2 ^ (0 : ℤ) ≤ top * 2 ^ (0 : ℤ) := by gcongr
  obtain ⟨hrawFin, hrawLe⟩ : f64IsFinite (f64OfNat raw) = true ∧ |f64Value (f64OfNat raw)| ≤ |f64Value (f64OfNat top)| :=
    f64Round_mono hcast htop
  have hprodTop : f64IsFinite (f64Mul (f64OfNat top) e.scale) = true := f64IsFinite_of_add hoffset h
  obtain ⟨hprodFin, hprodLe⟩ := f64Mul_mono hrawFin htop hscale hrawLe hprodTop
  refine f64IsFinite_add_of_le hprodFin hprodTop hoffset ?_ hprodLe h
  obtain ⟨m, x, hmul, -⟩ := f64Mul_of_finite hrawFin hscale
  obtain ⟨m', x', hmul', -⟩ := f64Mul_of_finite htop hscale
  rw [hmul, hmul', f64Neg_round, f64Neg_round, f64OfNat, f64OfNat, f64Neg_round, f64Neg_round]

/-- The largest raw value of a variant is a binary64 value. -/
theorem f64IsFinite_maxRaw (e : Entry) : f64IsFinite (f64OfNat (maxRaw e)) = true := by
  unfold maxRaw
  split
  · decide
  · decide
  · decide

end Sys2Proof.Machine
end

section
/-! The checks of one entry and of a configuration are the conditions of R11, R104 and R110. -/
namespace Sys2Proof

open Sys2Proof.Machine

/-- What `entryWf` checks of one entry: R104 (c), (d), (f) at the largest raw value, (g). -/
theorem entryWf_iff (e : Entry) : entryWf e = true ↔
    variantWf e.variant = true ∧ f64IsFinite e.scale = true ∧ f64IsFinite e.offset = true ∧
    f64IsFinite (scaleValue e (maxRaw e)) = true ∧ e.name.length ≤ 255 ∧ e.unit.length ≤ 255 := by
  simp only [entryWf, Bool.and_eq_true, decide_eq_true_eq, and_assoc]

/-- R104 (f) for every raw value, from the check at the largest one. -/
theorem f64IsFinite_scaleValue_of_entryWf {e : Entry} (h : entryWf e = true) {raw : Nat} (hraw : raw ≤ maxRaw e) :
    f64IsFinite (scaleValue e raw) = true := by
  obtain ⟨-, hscale, hoffset, htop, -, -⟩ := (entryWf_iff e).mp h
  exact f64IsFinite_scaleValue_of_le hscale hoffset (f64IsFinite_maxRaw e) hraw htop

/-- `entryWf` is R104 (c) to (g). -/
theorem entryWf_iff_entryIsWellFormed (e : Entry) : entryWf e = true ↔ EntryIsWellFormed e := by
  constructor
  · intro h
    obtain ⟨hvariant, hscale, hoffset, -, hname, hunit⟩ := (entryWf_iff e).mp h
    obtain ⟨hbit, hdual⟩ := (variantWf_iff e.variant).mp hvariant
    have hfinite : ∀ {raw : Nat}, raw ≤ maxRaw e → f64IsFinite (scaleValue e raw) = true :=
      f64IsFinite_scaleValue_of_entryWf h
    exact
      { bitIndex := hbit
        distinct := hdual
        finiteScale := hscale
        finiteOffset := hoffset
        finiteSingle := fun reg hv raw hraw => hfinite (by simpa only [maxRaw, hv] using hraw)
        finiteDual := fun msb lsb hv raw hraw => hfinite (by simpa only [maxRaw, hv] using hraw)
        finiteBit := fun reg bit hv raw hraw => hfinite (by simpa only [maxRaw, hv] using hraw)
        nameLength := hname
        unitLength := hunit }
  · intro h
    refine (entryWf_iff e).mpr ⟨(variantWf_iff e.variant).mpr ⟨h.bitIndex, h.distinct⟩, h.finiteScale, h.finiteOffset,
      ?_, h.nameLength, h.unitLength⟩
    cases hv : e.variant with
    | single reg => exact h.finiteSingle reg hv _ (by simp only [maxRaw, hv, le_refl])
    | dual msb lsb => exact h.finiteDual msb lsb hv _ (by simp only [maxRaw, hv, le_refl])
    | bit reg bit => exact h.finiteBit reg bit hv _ (by simp only [maxRaw, hv, le_refl])

/-- `configWf` is the condition `IsCfd` writes out (R13). -/
theorem configWf_iff_isCfd (c : Config) : configWf c = true ↔ IsCfd c := by
  simp only [configWf_iff, mafDistinct_iff, entryWf_iff_entryIsWellFormed]
  constructor
  · rintro ⟨⟨hn, hn'⟩, ⟨hl, hl'⟩, ⟨hm, hm'⟩, ⟨hb, hb'⟩, hentries, hmaf⟩
    exact ⟨hn, hn', hl, hl', hm, hm', hb, hb', hentries, hmaf⟩
  · rintro ⟨hn, hn', hl, hl', hm, hm', hb, hb', hentries, hmaf⟩
    exact ⟨⟨hn, hn'⟩, ⟨hl, hl'⟩, ⟨hm, hm'⟩, ⟨hb, hb'⟩, hentries, hmaf⟩

end Sys2Proof
end

section
/-! Every request is answered and every step of a CFD goes on. -/
namespace Sys2Proof.Machine

/-- Every instruction is one operation (R18). -/
theorem exec_eq_operate (i : Instr) (s : State) : ∃ body, exec i s = operate s body := by
  cases i with
  | enable id v => exact ⟨_, exec_enable id v s⟩
  | enumAll => exact ⟨_, exec_enumAll s⟩
  | enumEnabled => exact ⟨_, exec_enumEnabled s⟩
  | countEnabled => exact ⟨_, exec_countEnabled s⟩
  | lookupId id => exact ⟨_, exec_lookupId id s⟩
  | lookupReg b => exact ⟨_, exec_lookupReg b s⟩
  | extract id frame => exact ⟨_, exec_extract id frame s⟩
  | value id frame => exact ⟨_, exec_value id frame s⟩
  | scan needle buffer => exact ⟨_, exec_scan needle buffer s⟩
  | buildCmd ids => exact ⟨_, exec_buildCmd ids s⟩
  | parseCmd bytes => exact ⟨_, exec_parseCmd bytes s⟩
  | decodeFrame frame => exact ⟨_, exec_decodeFrame frame s⟩
  | syncPush chunk => exact ⟨_, exec_syncPush chunk s⟩
  | syncStatus => exact ⟨_, exec_syncStatus s⟩
  | wireMarkerPair r => exact ⟨_, exec_wire _ s rfl⟩
  | wireStreamStart => exact ⟨_, exec_wire _ s rfl⟩
  | wireInit => exact ⟨_, exec_wire _ s rfl⟩
  | wireInitResponse => exact ⟨_, exec_wire _ s rfl⟩
  | wireStreamStop => exact ⟨_, exec_wire _ s rfl⟩
  | wireStopAck => exact ⟨_, exec_wire _ s rfl⟩

/-- Every instruction answers a next state (R244 (d)). -/
theorem exec_next (i : Instr) (s : State) : ∃ t, exec i s = .next t := by
  obtain ⟨body, hbody⟩ := exec_eq_operate i s
  rw [hbody]
  exact operate_next s body

/-- An accepted packet is answered (R244 (d)). -/
theorem serve_next (p : Packet) (s : State) : ∃ t, serve p s = .next t := by
  obtain ⟨id, -, hserve⟩ | ⟨-, r, -, hserve⟩ | ⟨-, i, -, hserve⟩ := serve_cases p s
  · exact ⟨_, hserve⟩
  · exact ⟨_, hserve⟩
  · rw [hserve]
    exact exec_next i s

/-- Every step of a CFD answers a next state. -/
theorem step_next {s : State} (h : configWf s.config = true) : ∃ t, step s = .next t := by
  obtain ⟨-, hstep⟩ | ⟨turns, -, hstep⟩ | ⟨a, turns, -, -, hstep⟩ | ⟨a, turns, p, rest, -, -, hstep⟩ := step_cases s h
  · exact ⟨_, hstep⟩
  · exact ⟨_, hstep⟩
  · exact ⟨_, hstep⟩
  · rw [hstep]
    exact serve_next p _

/-- A configuration that is not a CFD's has no machine (R13). -/
theorem step_of_not_configWf {s : State} (h : ¬ configWf s.config = true) : step s = .refused .illFormedConfiguration := by
  rw [step, if_neg h]

end Sys2Proof.Machine
end

section
/-! The statements of 00_scope.md. -/
namespace Sys2Proof.Proofs

open Sys2Proof.Machine

/-- Settles O4: `configWf` is `IsCfd` condition by condition (finiteness at every raw value by monotone rounding), and a step
looks at nothing else before it answers. -/
theorem illFormedConfigurationIsRefused : Obligations.IllFormedConfigurationIsRefused := by
  intro s
  have hiff := configWf_iff_isCfd s.config
  exact ⟨hiff, fun h => step_of_not_configWf (mt hiff.mp h), fun h => step_next (hiff.mpr h)⟩

end Sys2Proof.Proofs
end

section
/-! The raw value of one parameter in one frame, and its two bytes in a response. -/
namespace Sys2Proof.Machine

/-! ## UNSCALED, one rule for each variant -/

/-- A Single's raw value is the byte at its register (R121). -/
theorem unscaled_of_single {e : Entry} {r x : Byte} {frame : Bytes} (id : Byte) (hv : e.variant = .single r)
    (hx : frame[r.toNat]? = some x) : unscaled id e frame = .ok (x.setWidth 16) := by
  have hread : frameByte id r frame = .ok x := (frameByte_ok_iff id r frame x).mpr hx
  simp only [unscaled, hv, hread]

/-- A Dual's raw value is the big-endian pair at its two registers (R122). -/
theorem unscaled_of_dual {e : Entry} {m l hi lo : Byte} {frame : Bytes} (id : Byte) (hv : e.variant = .dual m l)
    (hhi : frame[m.toNat]? = some hi) (hlo : frame[l.toNat]? = some lo) :
    unscaled id e frame = .ok (bigEndianPair hi lo) := by
  have hreadMsb : frameByte id m frame = .ok hi := (frameByte_ok_iff id m frame hi).mpr hhi
  have hreadLsb : frameByte id l frame = .ok lo := (frameByte_ok_iff id l frame lo).mpr hlo
  simp only [unscaled, hv, hreadMsb, hreadLsb]

/-- A Bit's raw value is the bit of the byte at its register (R123). -/
theorem unscaled_of_bit {e : Entry} {r b x : Byte} {frame : Bytes} (id : Byte) (hv : e.variant = .bit r b)
    (hx : frame[r.toNat]? = some x) : unscaled id e frame = .ok (bitOf x b.toNat) := by
  have hread : frameByte id r frame = .ok x := (frameByte_ok_iff id r frame x).mpr hx
  simp only [unscaled, hv, hread]

/-- The raw value of a known identifier is its entry's (R127). -/
theorem rawOf_of_unscaled {c : Config} {id : Byte} {frame : Bytes} {e : Entry} {raw : Raw} (he : c.cat[id.toNat]? = some e)
    (hraw : unscaled id e frame = .ok raw) : rawOf c id frame = .ok (e, raw) := by
  simp only [rawOf, entryAt, he, hraw]

/-- EXTRACT answers the raw value its entry has in the frame (R127). -/
theorem exec_extract_of_unscaled {s : State} {id : Byte} {frame : Bytes} {e : Entry} {raw : Raw} (hs : s.cfgStatus = .ready)
    (he : s.config.cat[id.toNat]? = some e) (hraw : unscaled id e frame = .ok raw) :
    exec (.extract id frame) s = .next (s.answer (0x00#8 :: be16 raw.toNat)) := by
  rw [exec_extract, rawOf_of_unscaled he hraw]
  exact operate_of_ok hs

/-! ## The value and the bytes of a raw value -/

/-- A bit read by division is the bit, bit 0 least significant (R15). -/
theorem bitOf_toNat_eq_ite (x : Byte) (i : Nat) : (bitOf x i).toNat = if x.getLsbD i then 1 else 0 := by
  have hbit : x.getLsbD i = decide (x.toNat / 2 ^ i % 2 = 1) := Nat.testBit_eq_decide_div_mod_eq
  rw [bitOf_toNat, hbit]
  rcases Nat.mod_two_eq_zero_or_one (x.toNat / 2 ^ i) with h | h <;> simp [h]

/-- A byte's BE16 field has a zero high byte (R66). -/
theorem be16_setWidth (x : Byte) : be16 (x.setWidth 16).toNat = [0x00#8, x] := by
  have hvalue : (x.setWidth 16).toNat = readBe16 0x00#8 x := by
    have hx := x.isLt
    simp only [BitVec.toNat_setWidth, readBe16, BitVec.toNat_ofNat]
    omega
  rw [hvalue, be16_readBe16]

/-- A pair's BE16 field is the pair, high byte first (R66). -/
theorem be16_bigEndianPair (hi lo : Byte) : be16 (bigEndianPair hi lo).toNat = [hi, lo] := by
  rw [bigEndianPair_toNat]
  exact be16_readBe16 hi lo

/-- A bit's BE16 field is 0 or 1 (R123). -/
theorem be16_bitOf (x : Byte) (i : Nat) : be16 (bitOf x i).toNat = [0x00#8, if x.getLsbD i then 1#8 else 0#8] := by
  rw [bitOf_toNat_eq_ite]
  cases x.getLsbD i <;> rfl

end Sys2Proof.Machine
end

section
/-! The statements of 20_memory.md. -/
namespace Sys2Proof.Proofs

open Sys2Proof.Machine

/-- Settles O26: each variant's raw value in the frame, and then its BE16 field. -/
theorem extractAnswersRawValue : Obligations.ExtractAnswersRawValue := by
  intro s id frame e hs he
  refine ⟨fun r x hv hx => ?single, fun m l hi lo hv hhi hlo => ?dual, fun r b x hv hx => ?bit⟩
  case single => rw [exec_extract_of_unscaled hs he (unscaled_of_single id hv hx), be16_setWidth]
  case dual => rw [exec_extract_of_unscaled hs he (unscaled_of_dual id hv hhi hlo), be16_bigEndianPair]
  case bit => rw [exec_extract_of_unscaled hs he (unscaled_of_bit id hv hx), be16_bitOf]

end Sys2Proof.Proofs
end

section
/-! The request decoder (30_encoding.md R84) against the encoder: each format reads the encodings of its instructions and
rejects every other byte sequence as malformed; the formats of the assigned opcodes make up `decodeRequest`. -/
namespace Sys2Proof

open Sys2Proof.Machine

/-- The bytes are the request that carries the instruction in a CFD of configuration `c` (R81, R83, R86). -/
def IsRequestOf (c : Config) (bytes : Bytes) (i : Instr) : Prop :=
  i.isWire = false ∧ i.wf c = true ∧ encode i = bytes

/-- The answer to the bytes of a request with an assigned opcode: the instruction that they encode, or MalformedRequest. -/
def ReadsRequest (c : Config) (bytes : Bytes) (answer : Except Reject Instr) : Prop :=
  answer = .error .malformedRequest ∨ ∃ i, answer = .ok i ∧ IsRequestOf c bytes i

/-! ## The operands that carry a list -/

theorem listFits_iff (c : Config) (data : Bytes) : listFits c data = true ↔ data.length ≤ c.listMax :=
  decide_eq_true_iff

theorem needleFits_iff (c : Config) (needle : Bytes) :
    needleFits c needle = true ↔ 1 ≤ needle.length ∧ needle.length ≤ c.needleMax := by
  simp only [needleFits, Bool.and_eq_true, decide_eq_true_eq]

/-- F-L has no other error. -/
theorem formatL_error {c : Config} {mk : Bytes → Instr} {rest : Bytes} {r : Reject}
    (h : formatL c mk rest = .error r) : r = .malformedRequest := by
  unfold formatL at h
  split at h
  · split_ifs at h <;> exact (Except.error.inj h).symm
  · exact (Except.error.inj h).symm

/-- A LEN above LIST_MAX is malformed, whatever follows (R86). -/
theorem formatL_of_listMax_lt {c : Config} (mk : Bytes → Instr) {hi lo : Byte} (rest : Bytes)
    (h : c.listMax < hi.toNat * 256 + lo.toNat) : formatL c mk (hi :: lo :: rest) = .error .malformedRequest :=
  if_neg (Nat.not_le.mpr h)

/-- An NLEN of 0 or above NEEDLE_MAX is malformed, whatever follows (R86). -/
theorem formatNL_of_nlen_reserved {c : Config} (mk : Bytes → Bytes → Instr) {nlen : Byte} (rest : Bytes)
    (h : ¬ (1 ≤ nlen.toNat ∧ nlen.toNat ≤ c.needleMax)) : formatNL c mk (nlen :: rest) = .error .malformedRequest :=
  if_neg h

/-- After a needle of the length NLEN gives, F-NL is F-L. -/
theorem formatNL_needle {c : Config} (mk : Bytes → Bytes → Instr) {nlen : Byte} {needle rest : Bytes}
    (hnlen : nlen.toNat = needle.length) (hfits : needleFits c needle = true) (hrest : 2 ≤ rest.length) :
    formatNL c mk (nlen :: (needle ++ rest)) = formatL c (mk needle) rest := by
  rw [formatNL, hnlen, if_pos ((needleFits_iff c needle).mp hfits), if_pos (by rw [List.length_append]; omega),
    List.take_left, List.drop_left]

/-- F-NL accepts its own encoding. -/
theorem formatNL_encode {c : Config} (mk : Bytes → Bytes → Instr) {needle buffer : Bytes} (hc : configWf c = true)
    (hneedle : needleFits c needle = true) (hbuffer : listFits c buffer = true) :
    formatNL c mk (BitVec.ofNat 8 needle.length :: (needle ++ encodeList buffer)) = .ok (mk needle buffer) := by
  obtain ⟨-, ⟨-, hlist⟩, ⟨-, hneedleMax⟩, -⟩ := (configWf_iff c).mp hc
  obtain ⟨-, hlength⟩ := (needleFits_iff c needle).mp hneedle
  have hnlen : (BitVec.ofNat 8 needle.length).toNat = needle.length := by
    rw [BitVec.toNat_ofNat]
    exact Nat.mod_eq_of_lt (by omega)
  have hrest : 2 ≤ (encodeList buffer).length := by simp only [encodeList, List.length_append, be16_length]; omega
  rw [formatNL_needle mk hnlen hneedle hrest]
  exact formatL_encodeList c _ buffer ((listFits_iff c buffer).mp hbuffer) (by omega)

/-! ## What each format reads -/

theorem formatN_reads {c : Config} {opc : Byte} {i : Instr} (h : IsRequestOf c [opc] i) (rest : Bytes) :
    ReadsRequest c (opc :: rest) (formatN i rest) := by
  match rest with
  | [] => exact .inr ⟨i, rfl, h⟩
  | _ :: _ => exact .inl rfl

theorem formatI_reads {c : Config} {opc : Byte} {mk : Byte → Instr} (h : ∀ x, IsRequestOf c [opc, x] (mk x))
    (rest : Bytes) : ReadsRequest c (opc :: rest) (formatI mk rest) := by
  match rest with
  | [] => exact .inl rfl
  | [x] => exact .inr ⟨mk x, rfl, h x⟩
  | _ :: _ :: _ => exact .inl rfl

/-- A V other than 0 and 1 is malformed (R86). -/
theorem formatIV_of_v_reserved (mk : Byte → Bool → Instr) (id : Byte) {v : Byte} (h0 : v ≠ 0#8) (h1 : v ≠ 1#8) :
    formatIV mk [id, v] = .error .malformedRequest := by
  rw [formatIV, if_neg h0, if_neg h1]

theorem formatIV_reads {c : Config} {opc : Byte} {mk : Byte → Bool → Instr}
    (h : ∀ id v, IsRequestOf c [opc, id, if v then 1#8 else 0#8] (mk id v)) (rest : Bytes) :
    ReadsRequest c (opc :: rest) (formatIV mk rest) := by
  match rest with
  | [] => exact .inl rfl
  | [_] => exact .inl rfl
  | [id, v] =>
    by_cases h0 : v = 0#8
    · exact h0 ▸ .inr ⟨mk id false, rfl, h id false⟩
    by_cases h1 : v = 1#8
    · exact h1 ▸ .inr ⟨mk id true, rfl, h id true⟩
    · exact .inl (formatIV_of_v_reserved mk id h0 h1)
  | _ :: _ :: _ :: _ => exact .inl rfl

/-- F-L, after the bytes `front` that stand before LEN in the request. -/
theorem formatL_reads {c : Config} (front : Bytes) (mk : Bytes → Instr)
    (h : ∀ data, listFits c data = true → IsRequestOf c (front ++ encodeList data) (mk data)) (rest : Bytes) :
    ReadsRequest c (front ++ rest) (formatL c mk rest) := by
  cases hanswer : formatL c mk rest with
  | error r => exact .inl (congrArg _ (formatL_error hanswer))
  | ok i =>
    obtain ⟨data, rfl, hlength, rfl⟩ := formatL_ok hanswer
    exact .inr ⟨mk data, rfl, h data ((listFits_iff c data).mpr hlength)⟩

theorem formatIL_reads {c : Config} {opc : Byte} (mk : Byte → Bytes → Instr)
    (h : ∀ id data, listFits c data = true → IsRequestOf c (opc :: id :: encodeList data) (mk id data)) (rest : Bytes) :
    ReadsRequest c (opc :: rest) (formatIL c mk rest) := by
  match rest with
  | [] => exact .inl rfl
  | id :: rest => exact formatL_reads [opc, id] (mk id) (h id) rest

theorem formatNL_reads {c : Config} {opc : Byte} (mk : Bytes → Bytes → Instr)
    (h : ∀ needle buffer, needleFits c needle = true → listFits c buffer = true →
      IsRequestOf c (opc :: BitVec.ofNat 8 needle.length :: (needle ++ encodeList buffer)) (mk needle buffer))
    (rest : Bytes) : ReadsRequest c (opc :: rest) (formatNL c mk rest) := by
  match rest with
  | [] => exact .inl rfl
  | nlen :: rest =>
    by_cases hnlen : 1 ≤ nlen.toNat ∧ nlen.toNat ≤ c.needleMax
    case neg => exact .inl (formatNL_of_nlen_reserved mk rest hnlen)
    by_cases hrest : nlen.toNat + 2 ≤ rest.length
    case neg => exact .inl (by rw [formatNL, if_pos hnlen, if_neg hrest])
    obtain ⟨needle, tail, rfl, hlength⟩ : ∃ needle tail, rest = needle ++ tail ∧ needle.length = nlen.toNat :=
      ⟨_, _, (List.take_append_drop nlen.toNat rest).symm, List.length_take_of_le (by omega)⟩
    have hfits : needleFits c needle = true := (needleFits_iff c needle).mpr (hlength ▸ hnlen)
    have hbyte : BitVec.ofNat 8 needle.length = nlen := by rw [hlength, BitVec.ofNat_toNat, BitVec.setWidth_eq]
    rw [formatNL_needle mk hlength.symm hfits (by rw [List.length_append] at hrest; omega)]
    exact formatL_reads (opc :: nlen :: needle) (mk needle) (fun buffer => hbyte ▸ h needle buffer hfits) tail

/-! ## The operation map -/

/-- The opcodes R83 assigns. -/
def assignedOpcodes : Bytes :=
  [0x01#8, 0x02#8, 0x03#8, 0x04#8, 0x05#8, 0x06#8, 0x10#8, 0x11#8, 0x20#8, 0x30#8, 0x31#8, 0x40#8, 0x50#8, 0x51#8]

/-- The operation map of R83: an opcode and the format that reads the bytes after it. -/
inductive OpcodeFormat (c : Config) : Byte → (Bytes → Except Reject Instr) → Prop where
  | enable : OpcodeFormat c 0x01#8 (formatIV .enable)
  | enumAll : OpcodeFormat c 0x02#8 (formatN .enumAll)
  | enumEnabled : OpcodeFormat c 0x03#8 (formatN .enumEnabled)
  | countEnabled : OpcodeFormat c 0x04#8 (formatN .countEnabled)
  | lookupId : OpcodeFormat c 0x05#8 (formatI .lookupId)
  | lookupReg : OpcodeFormat c 0x06#8 (formatI .lookupReg)
  | extract : OpcodeFormat c 0x10#8 (formatIL c .extract)
  | value : OpcodeFormat c 0x11#8 (formatIL c .value)
  | scan : OpcodeFormat c 0x20#8 (formatNL c .scan)
  | buildCmd : OpcodeFormat c 0x30#8 (formatL c .buildCmd)
  | parseCmd : OpcodeFormat c 0x31#8 (formatL c .parseCmd)
  | decodeFrame : OpcodeFormat c 0x40#8 (formatL c .decodeFrame)
  | syncPush : OpcodeFormat c 0x50#8 (formatL c .syncPush)
  | syncStatus : OpcodeFormat c 0x51#8 (formatN .syncStatus)

/-- An assigned opcode's request is read by the opcode's format. -/
theorem OpcodeFormat.decodeRequest_eq {c : Config} {opc : Byte} {format : Bytes → Except Reject Instr}
    (h : OpcodeFormat c opc format) (rest : Bytes) : decodeRequest c (opc :: rest) = format rest := by
  cases h <;> rfl

/-- Every assigned opcode has a format. -/
theorem exists_opcodeFormat (c : Config) {opc : Byte} (h : opc ∈ assignedOpcodes) :
    ∃ format, OpcodeFormat c opc format := by
  simp only [assignedOpcodes, List.mem_cons, List.not_mem_nil, or_false] at h
  rcases h with rfl | rfl | rfl | rfl | rfl | rfl | rfl | rfl | rfl | rfl | rfl | rfl | rfl | rfl <;>
    exact ⟨_, by constructor⟩

/-- An opcode that is not assigned is an illegal operation (R85). -/
theorem decodeRequest_of_not_assigned (c : Config) {opc : Byte} (rest : Bytes) (h : opc ∉ assignedOpcodes) :
    decodeRequest c (opc :: rest) = .error (.illegalOperation opc) := by
  simp only [assignedOpcodes, List.mem_cons, List.not_mem_nil, or_false, not_or] at h
  simp only [decodeRequest, h, if_false]

/-- An opcode's format reads the encodings of the opcode's instructions. -/
theorem OpcodeFormat.reads {c : Config} {opc : Byte} {format : Bytes → Except Reject Instr}
    (h : OpcodeFormat c opc format) (rest : Bytes) : ReadsRequest c (opc :: rest) (format rest) := by
  cases h with
  | enable => exact formatIV_reads (fun _ _ => ⟨rfl, rfl, rfl⟩) rest
  | enumAll => exact formatN_reads ⟨rfl, rfl, rfl⟩ rest
  | enumEnabled => exact formatN_reads ⟨rfl, rfl, rfl⟩ rest
  | countEnabled => exact formatN_reads ⟨rfl, rfl, rfl⟩ rest
  | lookupId => exact formatI_reads (fun _ => ⟨rfl, rfl, rfl⟩) rest
  | lookupReg => exact formatI_reads (fun _ => ⟨rfl, rfl, rfl⟩) rest
  | extract => exact formatIL_reads .extract (fun _ _ hfits => ⟨rfl, hfits, rfl⟩) rest
  | value => exact formatIL_reads .value (fun _ _ hfits => ⟨rfl, hfits, rfl⟩) rest
  | scan =>
    exact formatNL_reads .scan
      (fun _ _ hneedle hbuffer => ⟨rfl, Bool.and_eq_true_iff.mpr ⟨hneedle, hbuffer⟩, rfl⟩) rest
  | buildCmd => exact formatL_reads [_] .buildCmd (fun _ hfits => ⟨rfl, hfits, rfl⟩) rest
  | parseCmd => exact formatL_reads [_] .parseCmd (fun _ hfits => ⟨rfl, hfits, rfl⟩) rest
  | decodeFrame => exact formatL_reads [_] .decodeFrame (fun _ hfits => ⟨rfl, hfits, rfl⟩) rest
  | syncPush => exact formatL_reads [_] .syncPush (fun _ hfits => ⟨rfl, hfits, rfl⟩) rest
  | syncStatus => exact formatN_reads ⟨rfl, rfl, rfl⟩ rest

/-! ## The decoder and the encoder -/

/-- The answer to a request with an assigned opcode. -/
theorem decodeRequest_reads (c : Config) {opc : Byte} (rest : Bytes) (h : opc ∈ assignedOpcodes) :
    ReadsRequest c (opc :: rest) (decodeRequest c (opc :: rest)) := by
  obtain ⟨format, hformat⟩ := exists_opcodeFormat c h
  rw [hformat.decodeRequest_eq]
  exact hformat.reads rest

/-- Every instruction's request decodes to the instruction (R84). -/
theorem decodeRequest_of_isRequestOf {c : Config} {bytes : Bytes} {i : Instr} (hc : configWf c = true)
    (h : IsRequestOf c bytes i) : decodeRequest c bytes = .ok i := by
  obtain ⟨hwire, hwf, rfl⟩ := h
  obtain ⟨-, ⟨-, hlist⟩, -⟩ := (configWf_iff c).mp hc
  have hL : ∀ (mk : Bytes → Instr) (data : Bytes), listFits c data = true → formatL c mk (encodeList data) = .ok (mk data) :=
    fun mk data hfits => formatL_encodeList c mk data ((listFits_iff c data).mp hfits) (by omega)
  cases i with
  | enable id v => cases v <;> rfl
  | enumAll => rfl
  | enumEnabled => rfl
  | countEnabled => rfl
  | lookupId id => rfl
  | lookupReg b => rfl
  | extract id frame => exact hL (.extract id) frame hwf
  | value id frame => exact hL (.value id) frame hwf
  | scan needle buffer =>
    obtain ⟨hneedle, hbuffer⟩ := Bool.and_eq_true_iff.mp hwf
    exact formatNL_encode .scan hc hneedle hbuffer
  | buildCmd ids => exact hL .buildCmd ids hwf
  | parseCmd bytes => exact hL .parseCmd bytes hwf
  | decodeFrame frame => exact hL .decodeFrame frame hwf
  | syncPush chunk => exact hL .syncPush chunk hwf
  | syncStatus => rfl
  | _ => cases hwire

/-- R84, R228: a request is malformed exactly when no unassigned opcode begins it and it is no instruction's. -/
theorem decodeRequest_eq_malformed_iff {c : Config} (bytes : Bytes) (hc : configWf c = true) :
    decodeRequest c bytes = .error .malformedRequest ↔
      (∀ opc rest, bytes = opc :: rest → opc ∈ assignedOpcodes) ∧ ∀ i, ¬ IsRequestOf c bytes i := by
  constructor
  · intro hmalformed
    refine ⟨?_, fun i hi => ?_⟩
    · rintro opc rest rfl
      by_contra hopc
      rw [decodeRequest_of_not_assigned c rest hopc] at hmalformed
      cases hmalformed
    · rw [decodeRequest_of_isRequestOf hc hi] at hmalformed
      cases hmalformed
  · rintro ⟨hassigned, hnone⟩
    cases bytes with
    | nil => rfl
    | cons opc rest =>
      obtain hmalformed | ⟨i, -, hi⟩ := decodeRequest_reads c rest (hassigned opc rest rfl)
      · exact hmalformed
      · exact absurd hi (hnone i)

/-! ## Reserved operand values (R86) -/

/-- A LEN above LIST_MAX after OPC is malformed. -/
theorem decodeRequest_of_listMax_lt {c : Config} {opc hi lo : Byte} (rest : Bytes)
    (hopc : opc ∈ [0x30#8, 0x31#8, 0x40#8, 0x50#8]) (h : c.listMax < hi.toNat * 256 + lo.toNat) :
    decodeRequest c (opc :: hi :: lo :: rest) = .error .malformedRequest := by
  obtain ⟨mk, hformat⟩ : ∃ mk, OpcodeFormat c opc (formatL c mk) := by
    simp only [List.mem_cons, List.not_mem_nil, or_false] at hopc
    rcases hopc with rfl | rfl | rfl | rfl
    exacts [⟨_, .buildCmd⟩, ⟨_, .parseCmd⟩, ⟨_, .decodeFrame⟩, ⟨_, .syncPush⟩]
  rw [hformat.decodeRequest_eq]
  exact formatL_of_listMax_lt mk rest h

/-- A LEN above LIST_MAX after OPC and ID is malformed. -/
theorem decodeRequest_id_of_listMax_lt {c : Config} {opc hi lo : Byte} (id : Byte) (rest : Bytes)
    (hopc : opc ∈ [0x10#8, 0x11#8]) (h : c.listMax < hi.toNat * 256 + lo.toNat) :
    decodeRequest c (opc :: id :: hi :: lo :: rest) = .error .malformedRequest := by
  obtain ⟨mk, hformat⟩ : ∃ mk, OpcodeFormat c opc (formatIL c mk) := by
    simp only [List.mem_cons, List.not_mem_nil, or_false] at hopc
    rcases hopc with rfl | rfl
    exacts [⟨_, .extract⟩, ⟨_, .value⟩]
  rw [hformat.decodeRequest_eq]
  exact formatL_of_listMax_lt (mk id) rest h

/-- A LEN above LIST_MAX after a needle is malformed, whether or not the needle fits. -/
theorem formatNL_of_listMax_lt {c : Config} (mk : Bytes → Bytes → Instr) {nlen hi lo : Byte} {needle : Bytes} (rest : Bytes)
    (hnlen : nlen.toNat = needle.length) (h : c.listMax < hi.toNat * 256 + lo.toNat) :
    formatNL c mk (nlen :: (needle ++ hi :: lo :: rest)) = .error .malformedRequest := by
  by_cases hfits : needleFits c needle = true
  · rw [formatNL_needle mk hnlen hfits (by simp only [List.length_cons]; omega)]
    exact formatL_of_listMax_lt (mk needle) rest h
  · rw [needleFits_iff, ← hnlen] at hfits
    exact formatNL_of_nlen_reserved mk _ hfits

end Sys2Proof
end

section
/-! The statements of 30_encoding.md. -/
namespace Sys2Proof.Proofs

/-- Settles O11: each opcode's format reads exactly the encodings of the opcode's instructions and rejects the rest as
malformed; the reserved values are rejected by the format's own check, before what follows is looked at. -/
theorem reservedOperandValuesAreMalformed : Obligations.ReservedOperandValuesAreMalformed := by
  constructor
  · intro c bytes hc
    simp only [decode, decodeRequest_eq_malformed_iff bytes hc, IsRequestOf, assignedOpcodes, not_and, ne_eq]
  · intro c id v nlen hi lo needle rest
    refine ⟨rfl, fun h0 h1 => ?_, fun hnlen => ?_, fun hlen => ⟨fun opc hopc => ?_, fun opc hopc => ?_, fun hnlen => ?_⟩, rfl⟩
    · exact formatIV_of_v_reserved .enable id h0 h1
    · refine formatNL_of_nlen_reserved .scan rest ?_
      rintro ⟨hone, hmax⟩
      obtain rfl | hgt := hnlen
      · exact absurd hone (by decide)
      · omega
    · exact decodeRequest_of_listMax_lt rest hopc hlen
    · exact decodeRequest_id_of_listMax_lt id rest hopc hlen
    · exact formatNL_of_listMax_lt .scan rest hnlen hlen

end Sys2Proof.Proofs
end

section
/-! The catalog check (41_catalog.md R106): the entry CHECK_CAT names. -/
namespace Sys2Proof.Machine

/-- A byte holds a natural below 256. -/
theorem byte_toNat_ofNat {i : Nat} (hi : i < 256) : (BitVec.ofNat 8 i).toNat = i := Nat.mod_eq_of_lt hi

/-- A byte tells the naturals below 256 apart. -/
theorem byte_ofNat_inj {i j : Nat} (hi : i < 256) (hj : j < 256) (h : BitVec.ofNat 8 i = BitVec.ofNat 8 j) : i = j := by
  rw [← byte_toNat_ofNat hi, h, byte_toNat_ofNat hj]

/-- The key of entry `j` is the key of some earlier entry (R106). -/
def RepeatsKey (c : Config) (j : Nat) : Prop :=
  ∃ (i : Nat) (a b : Entry), i < j ∧ c.cat[i]? = some a ∧ c.cat[j]? = some b ∧ key a = key b

theorem RepeatsKey.lt_length {c : Config} {j : Nat} (h : RepeatsKey c j) : j < c.cat.length := by
  obtain ⟨_, _, b, -, -, hb, -⟩ := h
  exact (List.getElem?_eq_some_iff.mp hb).1

/-- An entry repeats no key exactly when its key differs from that of each earlier entry. -/
theorem not_repeatsKey_iff (c : Config) (j : Nat) : ¬ RepeatsKey c j ↔
    ∀ (i : Nat) (a b : Entry), i < j → c.cat[i]? = some a → c.cat[j]? = some b → key a ≠ key b := by
  simp only [RepeatsKey, not_exists, not_and, ne_eq]

/-- What `firstDuplicate` looks for, at an identifier of the catalog. -/
theorem any_sameKey_iff {c : Config} {j : Nat} (hj : j < c.cat.length) :
    ((List.range j).any fun i => sameKey c i j) = true ↔ RepeatsKey c j := by
  have hkey : ∀ i, (hi : i < j) → (sameKey c i j = true ↔ key (c.cat[i]'(hi.trans hj)) = key c.cat[j]) := fun i hi => by
    rw [sameKey, List.getElem?_eq_getElem (hi.trans hj), List.getElem?_eq_getElem hj, beq_iff_eq]
    exact Option.some_inj
  simp only [List.any_eq_true, List.mem_range]
  constructor
  · rintro ⟨i, hi, hsame⟩
    exact ⟨i, _, _, hi, List.getElem?_eq_getElem (hi.trans hj), List.getElem?_eq_getElem hj, (hkey i hi).mp hsame⟩
  · rintro ⟨i, a, b, hi, ha, hb, hab⟩
    obtain ⟨_, rfl⟩ := List.getElem?_eq_some_iff.mp ha
    obtain ⟨_, rfl⟩ := List.getElem?_eq_some_iff.mp hb
    exact ⟨i, hi, (hkey i hi).mpr hab⟩

/-- Nothing is found exactly when no entry repeats a key. -/
theorem firstDuplicate_eq_none_iff (c : Config) : firstDuplicate c = none ↔ ∀ j, ¬ RepeatsKey c j := by
  simp only [firstDuplicate, idList, Config.size, List.find?_range_eq_none, Bool.not_eq_true', ← Bool.not_eq_true]
  constructor
  · exact fun h j hj => h j hj.lt_length ((any_sameKey_iff hj.lt_length).mpr hj)
  · exact fun h j hj hany => h j ((any_sameKey_iff hj).mp hany)

/-- What is found is the smallest entry that repeats a key. -/
theorem firstDuplicate_eq_some_iff (c : Config) (j : Nat) :
    firstDuplicate c = some j ↔ RepeatsKey c j ∧ ∀ k < j, ¬ RepeatsKey c k := by
  simp only [firstDuplicate, idList, Config.size, List.find?_range_eq_some, List.mem_range, Bool.not_eq_true',
    ← Bool.not_eq_true]
  constructor
  · rintro ⟨hany, hj, hleast⟩
    exact ⟨(any_sameKey_iff hj).mp hany, fun k hk hrep => hleast k hk ((any_sameKey_iff hrep.lt_length).mpr hrep)⟩
  · rintro ⟨hrep, hleast⟩
    have hj := hrep.lt_length
    exact ⟨(any_sameKey_iff hj).mpr hrep, hj, fun k hk hany => hleast k hk ((any_sameKey_iff (hk.trans hj)).mp hany)⟩

theorem checkCat_eq_ready_iff (c : Config) : checkCat c = .ready ↔ firstDuplicate c = none := by
  cases h : firstDuplicate c <;> simp [checkCat, h]

/-- In a catalog of at most 255 entries the fault's byte is the entry's identifier. -/
theorem checkCat_eq_configFault_iff {c : Config} {j : Nat} (hc : c.cat.length ≤ 255) (hj : j < c.cat.length) :
    checkCat c = .configFault (BitVec.ofNat 8 j) ↔ firstDuplicate c = some j := by
  cases h : firstDuplicate c with
  | none => simp [checkCat, h]
  | some k =>
    have hk : k < c.cat.length := ((firstDuplicate_eq_some_iff c k).mp h).1.lt_length
    simp only [checkCat, h, CfgStatus.configFault.injEq, Option.some.injEq]
    exact ⟨byte_ofNat_inj (by omega) (by omega), congrArg _⟩

end Sys2Proof.Machine
end

section
/-! The enable vector (41_catalog.md R112, R114, R115, R118). -/
namespace Sys2Proof.Machine

/-- ENABLE of an entry of the catalog writes its bit and answers OK (R112). -/
theorem exec_enable_of_lt {s : State} {id : Byte} (v : Bool) (hs : s.cfgStatus = .ready)
    (hid : id.toNat < s.config.cat.length) :
    exec (.enable id v) s = .next ((s.setEn id.toNat v).answer [0x00#8]) := by
  rw [exec_enable, Config.size, if_pos hid]
  exact operate_of_ok hs

/-- ENABLE of an identifier of `N` or more writes nothing (R112). -/
theorem exec_enable_of_le {s : State} {id : Byte} (v : Bool) (hs : s.cfgStatus = .ready)
    (hid : s.config.cat.length ≤ id.toNat) : exec (.enable id v) s = .next (s.answer [0x01#8, id]) := by
  rw [exec_enable, Config.size, if_neg (Nat.not_lt.mpr hid)]
  exact operate_of_error hs

/-- A sequence goes on from the state its first operation leaves. -/
theorem execAll_cons_of_next {i : Instr} {s t : State} (is : List Instr) (h : exec i s = .next t) :
    execAll (i :: is) s = execAll is t := by
  rw [execAll, h]

/-- ENUM_ENABLED answers `[len(ids)] ++ ids` (R114). -/
theorem exec_enumEnabled_of_ready {s : State} (hs : s.cfgStatus = .ready) : exec .enumEnabled s =
    .next (s.answer (0x00#8 :: BitVec.ofNat 8 (enabledIds s).length :: (enabledIds s).map (BitVec.ofNat 8))) := by
  rw [exec_enumEnabled]
  exact operate_of_ok hs

/-- COUNT_ENABLED answers the number of identifiers ENUM_ENABLED lists (R118). -/
theorem exec_countEnabled_of_ready {s : State} (hs : s.cfgStatus = .ready) :
    exec .countEnabled s = .next (s.answer [0x00#8, BitVec.ofNat 8 (enabledIds s).length]) := by
  rw [exec_countEnabled, List.countP_eq_length_filter]
  exact operate_of_ok hs

/-- At most every entry is enabled. -/
theorem enabledIds_length_le (s : State) : (enabledIds s).length ≤ s.config.cat.length := by
  calc (enabledIds s).length ≤ (idList s.config).length := List.length_filter_le _ _
    _ = s.config.cat.length := List.length_range

/-- A bit beyond EN is not set. -/
theorem enBit_eq_getElem? (s : State) (i : Nat) : enBit s i = (s.en[i]? == some true) := by
  rw [enBit, List.getD_eq_getElem?_getD]
  rcases s.en[i]? with _ | _ | _ <;> rfl

/-- With one bit of EN for each entry, the enabled identifiers are the positions of the set bits. -/
theorem enabledIds_eq_filter {s : State} (hen : s.en.length = s.config.cat.length) :
    enabledIds s = (List.range s.en.length).filter fun i => s.en[i]? == some true := by
  rw [enabledIds, idList, Config.size, ← hen, funext (enBit_eq_getElem? s)]

/-- A list has as many positions of set bits as set bits. -/
theorem countP_range_getElem?_eq_count (l : List Bool) :
    (List.range l.length).countP (fun i => l[i]? == some true) = l.count true := by
  induction l with
  | nil => rfl
  | cons b l ih =>
    rw [List.length_cons, List.range_succ_eq_map, List.countP_cons, List.countP_map, List.count_cons, ← ih]
    rfl

/-- With one bit of EN for each entry, there are as many enabled identifiers as set bits. -/
theorem enabledIds_length {s : State} (hen : s.en.length = s.config.cat.length) :
    (enabledIds s).length = s.en.count true := by
  rw [enabledIds_eq_filter hen, ← List.countP_eq_length_filter, countP_range_getElem?_eq_count]

end Sys2Proof.Machine
end

section
/-! The lookups (41_catalog.md R111, R116, R117): the descriptor of an identifier and the reverse map. -/
namespace Sys2Proof.Machine

/-! ## LOOKUP_ID -/

/-- LOOKUP_ID of an entry of the catalog answers its descriptor (R116). -/
theorem exec_lookupId_of_some {s : State} {id : Byte} {e : Entry} (hs : s.cfgStatus = .ready)
    (he : s.config.cat[id.toNat]? = some e) : exec (.lookupId id) s = .next (s.answer (0x00#8 :: desc e)) := by
  simp only [exec_lookupId, entryAt, he]
  exact operate_of_ok hs

/-- LOOKUP_ID of an identifier of `N` or more names it (R116). -/
theorem exec_lookupId_of_le {s : State} {id : Byte} (hs : s.cfgStatus = .ready)
    (hid : s.config.cat.length ≤ id.toNat) : exec (.lookupId id) s = .next (s.answer [0x01#8, id]) := by
  simp only [exec_lookupId, entryAt, List.getElem?_eq_none hid]
  exact operate_of_error hs

/-- The fields of a descriptor in order (R88). -/
theorem desc_eq (v : Variant) (scale offset : F64) (name unit : Bytes) :
    desc ⟨v, scale, offset, name, unit⟩ = variantBytes v ++ be64 scale ++ be64 offset
      ++ [BitVec.ofNat 8 name.length] ++ name ++ [BitVec.ofNat 8 unit.length] ++ unit := by
  simp only [desc, counted, List.append_assoc, List.cons_append, List.nil_append]

/-! ## The reverse map -/

/-- A response shows what was answered. -/
theorem State.answer_inj {s : State} {p q : Bytes} (h : s.answer p = s.answer q) : p = q := by
  simpa using congrArg State.responses h

/-- LOOKUP_REG answers what the reverse map keeps (R117). -/
theorem exec_lookupReg_of_ready {s : State} (b : Byte) (hs : s.cfgStatus = .ready) :
    exec (.lookupReg b) s = .next (s.answer (0x00#8 :: presentBytes (revmap s.config b))) := by
  rw [exec_lookupReg]
  exact operate_of_ok hs

/-- The reverse map has nothing exactly for a byte that is no entry's canonical register (R111). -/
theorem revmap_eq_none_iff (c : Config) (b : Byte) : revmap c b = none ↔ ∀ i, i ∉ canonIds c b := by
  rw [← List.eq_nil_iff_forall_not_mem]
  cases h : c.revmapRule <;> simp [revmap, h]

/-- What the reverse map keeps is one of the candidates, whichever rule it follows (R111). -/
theorem exists_of_revmap_eq_some {c : Config} {b id : Byte} (h : revmap c b = some id) :
    ∃ i e, c.cat[i]? = some e ∧ canon e = b ∧ id = BitVec.ofNat 8 i := by
  obtain ⟨i, hi, rfl⟩ : ∃ i ∈ canonIds c b, BitVec.ofNat 8 i = id := by
    unfold revmap at h
    split at h
    · obtain ⟨i, hhead, hid⟩ := Option.map_eq_some_iff.mp h
      exact ⟨i, List.mem_of_head? hhead, hid⟩
    · obtain ⟨i, hlast, hid⟩ := Option.map_eq_some_iff.mp h
      exact ⟨i, List.mem_of_getLast? hlast, hid⟩
  obtain ⟨e, he, hcanon⟩ := (mem_canonIds c b i).mp hi
  exact ⟨i, e, he, hcanon, rfl⟩

/-- Around a candidate stand the smaller ones before it and the larger ones after it (R111). -/
theorem canonIds_split {c : Config} {b : Byte} {i : Nat} (h : i ∈ canonIds c b) :
    ∃ before after, canonIds c b = before ++ i :: after ∧ (∀ j ∈ before, j < i) ∧ ∀ j ∈ after, i < j := by
  obtain ⟨before, after, hsplit⟩ := List.append_of_mem h
  have hsorted : (canonIds c b).Pairwise (· < ·) := List.pairwise_lt_range.filter _
  rw [hsplit, List.pairwise_append, List.pairwise_cons] at hsorted
  obtain ⟨-, ⟨hafter, -⟩, hbefore⟩ := hsorted
  exact ⟨before, after, hsplit, fun j hj => hbefore j hj i List.mem_cons_self, hafter⟩

/-- Under FIRST the reverse map keeps the candidate that no smaller one precedes (R111). -/
theorem revmap_of_first {c : Config} {b : Byte} {i : Nat} (hrule : c.revmapRule = .first) (hi : i ∈ canonIds c b)
    (hfirst : ∀ j < i, j ∉ canonIds c b) : revmap c b = some (BitVec.ofNat 8 i) := by
  obtain ⟨before, after, hsplit, hbefore, -⟩ := canonIds_split hi
  have hnil : before = [] := List.eq_nil_iff_forall_not_mem.mpr fun j hj =>
    hfirst j (hbefore j hj) (hsplit ▸ List.mem_append_left _ hj)
  simp only [revmap, hrule, hsplit, hnil, List.nil_append, List.head?_cons, Option.map_some]

/-- Under LAST the reverse map keeps the candidate that no larger one follows (R111). -/
theorem revmap_of_last {c : Config} {b : Byte} {i : Nat} (hrule : c.revmapRule = .last) (hi : i ∈ canonIds c b)
    (hlast : ∀ j, i < j → j ∉ canonIds c b) : revmap c b = some (BitVec.ofNat 8 i) := by
  obtain ⟨before, after, hsplit, -, hafter⟩ := canonIds_split hi
  have hnil : after = [] := List.eq_nil_iff_forall_not_mem.mpr fun j hj =>
    hlast j (hafter j hj) (hsplit ▸ List.mem_append_right _ (List.mem_cons_of_mem _ hj))
  simp only [revmap, hrule, hsplit, hnil, List.getLast?_concat, Option.map_some]

/-- The only entry with a canonical register is the one the reverse map keeps for it, whichever rule it follows (R119). -/
theorem revmap_of_unique {c : Config} {b : Byte} {i : Nat} {e : Entry} (he : c.cat[i]? = some e) (hcanon : canon e = b)
    (hunique : ∀ (j : Nat) (f : Entry), c.cat[j]? = some f → canon f = b → j = i) :
    revmap c b = some (BitVec.ofNat 8 i) := by
  cases hrev : revmap c b with
  | none => exact absurd ((mem_canonIds c b i).mpr ⟨e, he, hcanon⟩) ((revmap_eq_none_iff c b).mp hrev i)
  | some id =>
    obtain ⟨j, f, hf, hfcanon, rfl⟩ := exists_of_revmap_eq_some hrev
    rw [hunique j f hf hfcanon]

/-- An identifier LOOKUP_REG answers names an entry whose canonical register was asked for (R111, R117). -/
theorem exists_canon_of_exec_lookupReg {s : State} {b id : Byte} (hs : s.cfgStatus = .ready)
    (h : exec (.lookupReg b) s = .next (s.answer [0x00#8, 0x01#8, id])) :
    ∃ i e, s.config.cat[i]? = some e ∧ canon e = b ∧ id = BitVec.ofNat 8 i := by
  rw [exec_lookupReg_of_ready b hs] at h
  have hbytes : presentBytes (revmap s.config b) = [0x01#8, id] :=
    (List.cons.inj (State.answer_inj (Host.Outcome.next.inj h))).2
  cases hrev : revmap s.config b with
  | none => simp [hrev, presentBytes, flagByte] at hbytes
  | some kept =>
    obtain rfl : kept = id := by simpa [hrev, presentBytes, flagByte] using hbytes
    exact exists_of_revmap_eq_some hrev

end Sys2Proof.Machine
end

section
/-! The entries the source pins (41_catalog.md R107 to R110). -/
namespace Sys2Proof.Machine

/-- The canonical register is one of an entry's registers (R103). -/
theorem canon_mem_regs (e : Entry) : canon e ∈ regs e := by
  cases hv : e.variant <;> simp [canon, regs, hv]

/-- Every entry of a CFD's catalog has an identifier that is a byte. -/
theorem exists_id_of_mem {c : Config} {e : Entry} (hc : configWf c = true) (he : e ∈ c.cat) :
    ∃ id : Byte, c.cat[id.toNat]? = some e := by
  obtain ⟨⟨-, hlength⟩, -⟩ := (configWf_iff c).mp hc
  obtain ⟨i, hi, rfl⟩ := List.mem_iff_getElem.mp he
  exact ⟨BitVec.ofNat 8 i, by rw [byte_toNat_ofNat (by omega), List.getElem?_eq_getElem hi]⟩

/-- What `configPinned` asks for (R107 to R110). -/
theorem configPinned_iff (c : Config) : configPinned c = true ↔
    (∃ e ∈ c.cat, e.name = nameEngineSpeedHr ∧ e.variant = .dual 0x00#8 0x01#8 ∧ e.scale = 0x4029000000000000#64 ∧
      e.offset = 0#64) ∧
    (∃ e ∈ c.cat, e.name = nameAcOn ∧ e.variant = .bit 0x13#8 4#8) ∧
    (∃ e ∈ c.cat, e.name = namePowerSteering ∧ e.variant = .bit 0x13#8 3#8) ∧
    ∃ e ∈ c.cat, e.name = nameMafVoltage ∧ ∃ g ∈ c.cat, g.name = nameMafVoltageRh ∧ regsDisjoint e g = true := by
  simp only [configPinned, pinsEngineSpeedHr, pinsBitEntries, pinsMafEntries, Bool.and_eq_true, List.any_eq_true,
    beq_iff_eq, and_assoc]

/-- A named Bit entry of a CFD is read at its register and bit (R108, R109, R123). -/
theorem exists_bit_entry_served {s : State} {name : Bytes} {r b : Byte} (hs : s.cfgStatus = .ready)
    (hc : configWf s.config = true) (h : ∃ e ∈ s.config.cat, e.name = name ∧ e.variant = .bit r b) :
    ∃ (id : Byte) (e : Entry), s.config.cat[id.toNat]? = some e ∧ e.name = name ∧
      ∀ (frame : Bytes) (x : Byte), frame[r.toNat]? = some x →
        exec (.extract id frame) s = .next (s.answer [0x00#8, 0x00#8, if x.getLsbD b.toNat then 1#8 else 0#8]) := by
  obtain ⟨e, he, hname, hv⟩ := h
  obtain ⟨id, hid⟩ := exists_id_of_mem hc he
  refine ⟨id, e, hid, hname, fun frame x hx => ?_⟩
  rw [exec_extract_of_unscaled hs hid (unscaled_of_bit id hv hx), be16_bitOf]

/-- A register lookup at one entry does not find another that shares no register with it (R110). -/
theorem exec_lookupReg_canon_ne {s : State} {e g : Entry} {j : Byte} (hs : s.cfgStatus = .ready)
    (hc : configWf s.config = true) (hg : s.config.cat[j.toNat]? = some g) (hne : canon g ≠ canon e) :
    exec (.lookupReg (canon e)) s ≠ .next (s.answer [0x00#8, 0x01#8, j]) := by
  intro h
  obtain ⟨⟨-, hlength⟩, -⟩ := (configWf_iff s.config).mp hc
  obtain ⟨i, f, hf, hcanon, rfl⟩ := exists_canon_of_exec_lookupReg hs h
  obtain ⟨hi, -⟩ := List.getElem?_eq_some_iff.mp hf
  rw [byte_toNat_ofNat (by omega), hf] at hg
  exact hne (Option.some_inj.mp hg ▸ hcanon)

end Sys2Proof.Machine
end

section
/-! The statements of 41_catalog.md. -/
namespace Sys2Proof.Proofs

open Sys2Proof.Machine

/-- Settles O2: the search of CHECK_CAT finds the smallest entry that repeats a key, and below 256 its byte names it. -/
theorem catalogCheckNamesFirstDuplicate : Obligations.CatalogCheckNamesFirstDuplicate := by
  intro c hc
  refine ⟨State.resetOf_cfgStatus c, ?ready, fun j hj => ?fault⟩
  case ready =>
    simp only [checkCat_eq_ready_iff, firstDuplicate_eq_none_iff, not_repeatsKey_iff]
    exact forall_comm
  case fault =>
    simp only [checkCat_eq_configFault_iff hc hj, firstDuplicate_eq_some_iff, not_repeatsKey_iff]
    exact and_congr Iff.rfl ⟨fun h i k a b hik hkj => h k hkj i a b hik, fun h k hkj i a b hik => h i k a b hik hkj⟩

/-- Settles O21: ENUM_ENABLED's filter runs over the positions of EN, which are as many as the set bits. -/
theorem enabledParametersAreListedAndCounted : Obligations.EnabledParametersAreListedAndCounted := by
  refine fun c s => ⟨rfl, rfl, fun hs hen => ⟨?_, ?_⟩⟩
  · rw [exec_enumEnabled_of_ready hs, enabledIds_length hen, enabledIds_eq_filter hen]
  · rw [exec_countEnabled_of_ready hs, enabledIds_length hen]

/-- Settles O22: both answer the length of one list, which a byte holds. -/
theorem countLaw : Obligations.CountLaw := by
  intro s hs hc
  refine ⟨_, _, exec_countEnabled_of_ready hs, exec_enumEnabled_of_ready hs, ?_⟩
  have hlength := enabledIds_length_le s
  rw [List.length_map, byte_toNat_ofNat (by omega)]

/-- Settles O24: no candidate, the smallest under FIRST, the largest under LAST. -/
theorem lookupRegAnswersReverseMap : Obligations.LookupRegAnswersReverseMap := by
  refine fun c s b => ⟨rfl, fun hs => ⟨fun hnone => ?none, fun i e he hcanon => ?some⟩⟩
  case none =>
    have hrev : revmap s.config b = none := (revmap_eq_none_iff _ b).mpr fun i hi => by
      obtain ⟨e, he, hcanon⟩ := (mem_canonIds _ b i).mp hi
      exact hnone e (List.mem_of_getElem? he) hcanon
    rw [exec_lookupReg_of_ready b hs, hrev]
    rfl
  case some =>
    have hi : i ∈ canonIds s.config b := (mem_canonIds _ b i).mpr ⟨e, he, hcanon⟩
    have hnot : ∀ j, (∀ f, s.config.cat[j]? = some f → canon f ≠ b) → j ∉ canonIds s.config b := fun j hj hmem => by
      obtain ⟨f, hf, hfcanon⟩ := (mem_canonIds _ b j).mp hmem
      exact hj f hf hfcanon
    rw [exec_lookupReg_of_ready b hs]
    refine ⟨fun hrule hfirst => ?_, fun hrule hlast => ?_⟩
    · rw [revmap_of_first hrule hi fun j hj => hnot j fun f => hfirst j f hj]
      rfl
    · rw [revmap_of_last hrule hi fun j hj => hnot j fun f => hlast j f hj]
      rfl

/-- Settles O25: the map finds only entries with the canonical register asked for, and a Dual's MSB is not its own. -/
theorem canonicalAddressingLaw : Obligations.CanonicalAddressingLaw := by
  intro s i m l scale offset name unit hc hs hi
  refine ⟨fun hunique => ?lsb, ?msb⟩
  case lsb =>
    rw [exec_lookupReg_of_ready l hs, revmap_of_unique (b := l) hi rfl hunique]
    rfl
  case msb =>
    rw [exec_lookupReg_of_ready m hs]
    cases hrev : revmap s.config m with
    | none => exact .inl rfl
    | some id =>
      obtain ⟨j, e, he, hcanon, rfl⟩ := exists_of_revmap_eq_some hrev
      have hcfd := (configWf_iff_isCfd s.config).mp hc
      have hml : m ≠ l := (hcfd.entries _ (List.mem_of_getElem? hi)).distinct m l rfl
      have hji : j ≠ i := by
        rintro rfl
        obtain rfl := Option.some_inj.mp (hi.symm.trans he)
        exact hml hcanon.symm
      have hbyte : BitVec.ofNat 8 j ≠ BitVec.ofNat 8 i := by
        have hlength := hcfd.atMost255Entries
        obtain ⟨hjlt, -⟩ := List.getElem?_eq_some_iff.mp he
        obtain ⟨hilt, -⟩ := List.getElem?_eq_some_iff.mp hi
        exact fun h => hji (byte_ofNat_inj (by omega) (by omega) h)
      exact .inr ⟨j, e, hji, he, hcanon, hbyte, rfl⟩

/-- Settles O59: `configWf` has the MAF constraint; the pinned entries have identifiers, at which the reads answer them; and a
lookup at one MAF entry finds no entry whose canonical register differs from its own. -/
theorem pinnedEntriesAreServed : Obligations.PinnedEntriesAreServed := by
  intro s hs hc
  have hmaf := ((configWf_iff_isCfd s.config).mp hc).mafRegistersDistinct
  refine ⟨hmaf, fun hpinned => ?_⟩
  obtain ⟨⟨⟨v, scale, offset, name, unit⟩, he, rfl, rfl, rfl, rfl⟩, hac, hsteering, e, hemem, hename, g, hgmem, hgname, -⟩ :=
    (configPinned_iff s.config).mp hpinned
  refine ⟨?engineSpeed, exists_bit_entry_served hs hc hac, exists_bit_entry_served hs hc hsteering, ?mafEntries⟩
  case engineSpeed =>
    obtain ⟨id, hid⟩ := exists_id_of_mem hc he
    refine ⟨id, unit, ?_, fun frame hi lo hhi hlo => ?_⟩
    · rw [exec_lookupId_of_some hs hid, desc_eq]
      rfl
    · rw [exec_extract_of_unscaled hs hid (unscaled_of_dual id rfl hhi hlo), be16_bigEndianPair]
  case mafEntries =>
    obtain ⟨i, hi⟩ := exists_id_of_mem hc hemem
    obtain ⟨j, hj⟩ := exists_id_of_mem hc hgmem
    have hne : canon e ≠ canon g := fun h =>
      hmaf e hemem g hgmem hename hgname _ (canon_mem_regs e) (h ▸ canon_mem_regs g)
    exact ⟨i, j, e, g, hi, hj, hename, hgname, exec_lookupReg_canon_ne hs hc hj hne.symm,
      exec_lookupReg_canon_ne hs hc hi hne⟩

/-- Settles O3, by the definitions of the three functions on each variant. -/
theorem registersCanonicalAndKey : Obligations.RegistersCanonicalAndKey := by
  intro scale offset name unit r m l b
  exact ⟨⟨rfl, rfl, rfl⟩, ⟨rfl, rfl, rfl⟩, rfl, rfl, rfl⟩

/-- Settles O19: one write of the bit, whose repetition writes the same, or the error. -/
theorem enableWritesItsBit : Obligations.EnableWritesItsBit := by
  intro c s id v
  refine ⟨rfl, rfl, fun x h0 h1 => formatIV_of_v_reserved .enable id h0 h1, fun hs hid => ?_, exec_enable_of_le v⟩
  have honce := exec_enable_of_lt v hs hid
  have htwice := exec_enable_of_lt (s := (s.setEn id.toNat v).answer [0x00#8]) v hs hid
  refine ⟨honce, ?_⟩
  rw [execAll_cons_of_next _ honce, execAll_cons_of_next _ htwice]
  simp [execAll, State.setEn, State.answer]

/-- Settles O20: the body of ENUM_ALL is an answer in every state. -/
theorem enumAllListsTheCatalog : Obligations.EnumAllListsTheCatalog := by
  refine fun c s => ⟨rfl, fun hs => ?_⟩
  rw [exec_enumAll]
  exact operate_of_ok hs

/-- Settles O23: the entry's descriptor, written out for its variant. -/
theorem lookupIdAnswersDescriptor : Obligations.LookupIdAnswersDescriptor := by
  intro c s id scale offset name unit r m l b
  refine ⟨rfl, fun hs => ⟨fun he => ?_, fun he => ?_, fun he => ?_, exec_lookupId_of_le hs⟩⟩ <;>
    rw [exec_lookupId_of_some hs he, desc_eq] <;> rfl

end Sys2Proof.Proofs
end

section
/-! The reads that raise: the first register the frame does not reach, and an identifier of `N` or more. -/
namespace Sys2Proof.Machine

/-- An address below the frame's length reads the byte there (R120). -/
theorem frameByte_of_lt (id : Byte) {a : Byte} {frame : Bytes} (h : a.toNat < frame.length) :
    frameByte id a frame = .ok frame[a.toNat] :=
  (frameByte_ok_iff id a frame _).mpr (List.getElem?_eq_getElem h)

/-- An address at or past the frame's end is FrameTooShort (R120). -/
theorem frameByte_of_le (id : Byte) {a : Byte} {frame : Bytes} (h : frame.length ≤ a.toNat) :
    frameByte id a frame = .error (.frameTooShort id a) :=
  (frameByte_error_iff id a frame _).mpr ⟨h, rfl⟩

/-- The first of an entry's registers that the frame does not reach is the one named; a Dual's MSB is its first (R120 to
R123). -/
theorem unscaled_of_find?_regs (id : Byte) {e : Entry} {frame : Bytes} {a : Byte}
    (h : (regs e).find? (fun r => frame.length ≤ r.toNat) = some a) :
    unscaled id e frame = .error (.frameTooShort id a) := by
  cases hv : e.variant with
  | single r =>
    obtain ⟨hr, rfl⟩ : frame.length ≤ r.toNat ∧ r = a := by simpa [regs, hv] using h
    simp only [unscaled, hv, frameByte_of_le id hr]
  | bit r b =>
    obtain ⟨hr, rfl⟩ : frame.length ≤ r.toNat ∧ r = a := by simpa [regs, hv] using h
    simp only [unscaled, hv, frameByte_of_le id hr]
  | dual m l =>
    rcases Nat.lt_or_ge m.toNat frame.length with hm | hm
    · obtain ⟨hl, rfl⟩ : frame.length ≤ l.toNat ∧ l = a := by simpa [regs, hv, hm] using h
      simp only [unscaled, hv, frameByte_of_lt id hm, frameByte_of_le id hl]
    · obtain rfl : m = a := by simpa [regs, hv, hm] using h
      simp only [unscaled, hv, frameByte_of_le id hm]

/-- An identifier of `N` or more is named before the frame is looked at (R127, R223). -/
theorem rawOf_of_le {c : Config} {id : Byte} (frame : Bytes) (hid : c.cat.length ≤ id.toNat) :
    rawOf c id frame = .error (.unknownParameterIdentifier id) := by
  simp only [rawOf, entryAt, List.getElem?_eq_none hid]

/-- The error of a known identifier is its entry's (R127). -/
theorem rawOf_of_find?_regs {c : Config} {id : Byte} {frame : Bytes} {e : Entry} {a : Byte}
    (he : c.cat[id.toNat]? = some e) (h : (regs e).find? (fun r => frame.length ≤ r.toNat) = some a) :
    rawOf c id frame = .error (.frameTooShort id a) := by
  simp only [rawOf, entryAt, he, unscaled_of_find?_regs id h]

/-- EXTRACT and VALUE raise the error of the raw value they read (R127, R128). -/
theorem exec_of_rawOf_error {i : Instr} {s : State} {id : Byte} {frame : Bytes} {r : OpError}
    (hi : i = .extract id frame ∨ i = .value id frame) (hs : s.cfgStatus = .ready)
    (hraw : rawOf s.config id frame = .error r) : exec i s = .next (s.answer (errorResponse r)) := by
  rcases hi with rfl | rfl
  · rw [exec_extract, hraw]
    exact operate_of_error hs
  · rw [exec_value, hraw]
    exact operate_of_error hs

end Sys2Proof.Machine
end

section
/-! The operations whose answer the configuration alone decides (R129, R160, R161). -/
namespace Sys2Proof.Machine

/-- The instruction's payload or error is a function of the configuration, and it writes nothing but the response. -/
def ReadsConfigOnly (i : Instr) : Prop :=
  ∃ out : Config → Except OpError Bytes, ∀ s, exec i s = operate s ((out s.config).map (Prod.mk s))

theorem ReadsConfigOnly.extract (id : Byte) (frame : Bytes) : ReadsConfigOnly (.extract id frame) :=
  ⟨fun c => (rawOf c id frame).map fun p => be16 p.2.toNat, fun s => by
    rw [exec_extract]
    beta_reduce
    cases rawOf s.config id frame <;> rfl⟩

theorem ReadsConfigOnly.value (id : Byte) (frame : Bytes) : ReadsConfigOnly (.value id frame) :=
  ⟨fun c => (rawOf c id frame).map fun p => be64 (scaleValue p.1 p.2.toNat), fun s => by
    rw [exec_value]
    beta_reduce
    cases rawOf s.config id frame <;> rfl⟩

/-- A length-counted answer writes nothing but the response. -/
theorem countedPayload_eq_map (s : State) (out : Except OpError Bytes) :
    countedPayload s out = (out.map fun bytes => be16 bytes.length ++ bytes).map (Prod.mk s) := by
  cases out <;> rfl

theorem ReadsConfigOnly.buildCmd (ids : Bytes) : ReadsConfigOnly (.buildCmd ids) :=
  ⟨fun c => (buildCommand c ids).map fun out => be16 out.length ++ out, fun s => by
    rw [exec_buildCmd, countedPayload_eq_map]⟩

theorem ReadsConfigOnly.parseCmd (bytes : Bytes) : ReadsConfigOnly (.parseCmd bytes) :=
  ⟨fun c => (parseCommand c bytes).map fun out => be16 out.length ++ out, fun s => by
    rw [exec_parseCmd, countedPayload_eq_map]⟩

/-- Such an instruction answers the same in two states of one configuration and one CFG_STATUS (R129). -/
theorem ReadsConfigOnly.same_answer {i : Instr} (h : ReadsConfigOnly i) {s t : State} (hconfig : t.config = s.config)
    (hstatus : t.cfgStatus = s.cfgStatus) :
    ∃ bytes : Bytes, exec i s = .next (s.answer bytes) ∧ exec i t = .next (t.answer bytes) := by
  obtain ⟨out, hout⟩ := h
  rw [hout, hout, hconfig]
  cases hs : s.cfgStatus with
  | configFault id => exact ⟨_, operate_of_fault hs _, operate_of_fault (hstatus.trans hs) _⟩
  | ready =>
    cases out s.config with
    | ok payload => exact ⟨_, operate_of_ok hs, operate_of_ok (hstatus.trans hs)⟩
    | error r => exact ⟨_, operate_of_error hs, operate_of_error (hstatus.trans hs)⟩

end Sys2Proof.Machine
end

section
/-! The statements of 42_parameter_model.md. -/
namespace Sys2Proof.Proofs

open Sys2Proof.Machine

/-- Settles O29: each of the four reads the configuration only, which the two states share. -/
theorem enableBitsDoNotReachThem : Obligations.EnableBitsDoNotReachThem := by
  intro s en i hi
  have hreads : ReadsConfigOnly i := by
    obtain ⟨id, frame, rfl⟩ | ⟨id, frame, rfl⟩ | ⟨ids, rfl⟩ | ⟨bytes, rfl⟩ := hi
    · exact .extract id frame
    · exact .value id frame
    · exact .buildCmd ids
    · exact .parseCmd bytes
  exact hreads.same_answer rfl rfl

/-- Settles O28: the raw value's error, which names the first of the entry's registers past the frame's end. -/
theorem frameReadsAreBoundsChecked : Obligations.FrameReadsAreBoundsChecked := by
  intro s id frame i hs hi
  refine ⟨fun hid => exec_of_rawOf_error hi hs (rawOf_of_le frame hid), fun e he => ?_⟩
  have hshort (a : Byte) (h : (regs e).find? (fun r => frame.length ≤ r.toNat) = some a) :
      exec i s = .next (s.answer [0x03#8, id, a]) := exec_of_rawOf_error hi hs (rawOf_of_find?_regs he h)
  refine ⟨fun r hv hr => hshort r ?single, fun r b hv hr => hshort r ?bit, fun m l hv hm => hshort m ?msb,
    fun m l hv hm hl => hshort l ?lsb⟩
  case single => simp [regs, hv, hr]
  case bit => simp [regs, hv, hr]
  case msb => simp [regs, hv, hm]
  case lsb => simp [regs, hv, hm, hl]

end Sys2Proof.Proofs
end

section
/-! The byte scanner: which of the three cases of R141 to R143 SCAN_MATCH answers, and what it skips. -/
namespace Sys2Proof.Machine

/-- Two first occurrences in one buffer leave the same bytes behind them. -/
theorem firstOccurrence_after_unique {needle whole before after before' after' : Bytes}
    (h : FirstOccurrence needle whole before after) (h' : FirstOccurrence needle whole before' after') :
    after = after' := by
  obtain ⟨heq, hmin⟩ := h
  obtain ⟨heq', hmin'⟩ := h'
  have hlength : before.length = before'.length := Nat.le_antisymm (hmin _ _ heq') (hmin' _ _ heq)
  exact (List.append_inj (heq.symm.trans heq') (by simp [hlength])).2

/-- R141: the bytes after the first occurrence. -/
theorem scanMatch_of_firstOccurrence {needle buf before after : Bytes} (h : FirstOccurrence needle buf before after) :
    scanMatch buf needle = (true, after) := by
  cases hafter : afterFirst needle buf with
  | none => exact absurd h.1 (noOccurrence_of_afterFirst hafter before after)
  | some after' =>
    obtain ⟨before', h'⟩ := firstOccurrence_of_afterFirst hafter
    simp only [scanMatch, hafter, firstOccurrence_after_unique h h']

/-- R142, R143: with no occurrence the remainder is the partial suffix. -/
theorem scanMatch_of_noOccurrence {needle buf : Bytes} (h : NoOccurrence needle buf) :
    scanMatch buf needle = (false, partialSuffix needle buf) := by
  cases hafter : afterFirst needle buf with
  | none => simp only [scanMatch, hafter]
  | some after =>
    obtain ⟨before, hfirst⟩ := firstOccurrence_of_afterFirst hafter
    exact absurd hfirst.1 (h before after)

/-- The longest partial match of R142 is the one kept. -/
theorem partialSuffix_eq_of_longest {needle buf suffix : Bytes} (hneedle : needle ≠ [])
    (h : PartialMatch needle buf suffix) (hlongest : ∀ other, PartialMatch needle buf other → other.length ≤ suffix.length) :
    partialSuffix needle buf = suffix := by
  have hkept := partialSuffix_partial needle buf hneedle
  have hlength := Nat.le_antisymm (hlongest _ hkept) (partialSuffix_longest h)
  exact (List.suffix_of_suffix_length_le hkept.1 h.1 hlength.le).eq_of_length hlength

/-- SCAN_MATCH says "not found" exactly when the search for an occurrence fails; the remainder is then the partial suffix. -/
theorem scanMatch_eq_false_iff {needle buf r : Bytes} :
    scanMatch buf needle = (false, r) ↔ afterFirst needle buf = none ∧ partialSuffix needle buf = r := by
  unfold scanMatch
  cases afterFirst needle buf <;> simp

theorem afterFirst_cons_of_not_prefix {needle buf : Bytes} {x : Byte} (h : ¬ needle <+: x :: buf) :
    afterFirst needle (x :: buf) = afterFirst needle buf := by
  simp only [afterFirst, List.isPrefixOf_iff_prefix, if_neg h]

theorem not_prefix_of_afterFirst_cons {needle buf : Bytes} {x : Byte} (h : afterFirst needle (x :: buf) = none) :
    ¬ needle <+: x :: buf := by
  intro hp
  simp [afterFirst, List.isPrefixOf_iff_prefix, hp] at h

theorem partialSuffix_cons_of_prefix {needle buf : Bytes} {x : Byte} (hshort : ¬ needle <+: x :: buf)
    (h : x :: buf <+: needle) : partialSuffix needle (x :: buf) = x :: buf := by
  have hlt : (x :: buf).length < needle.length :=
    lt_of_le_of_ne h.length_le fun heq => hshort (h.eq_of_length heq ▸ List.prefix_refl _)
  simp only [partialSuffix, List.isPrefixOf_iff_prefix, if_pos (And.intro hlt h)]

theorem partialSuffix_cons_of_not_prefix {needle buf : Bytes} {x : Byte} (h : ¬ x :: buf <+: needle) :
    partialSuffix needle (x :: buf) = partialSuffix needle buf := by
  simp only [partialSuffix, List.isPrefixOf_iff_prefix, if_neg fun hp : _ ∧ _ => h hp.2]

/-- A first byte where no occurrence starts and no partial match starts can be dropped. -/
theorem scanMatch_cons_of_not_prefix {needle buf : Bytes} {x : Byte} (hneedle : ¬ needle <+: x :: buf)
    (hbuf : ¬ x :: buf <+: needle) : scanMatch (x :: buf) needle = scanMatch buf needle := by
  simp only [scanMatch, afterFirst_cons_of_not_prefix hneedle, partialSuffix_cons_of_not_prefix hbuf]

/-- R145: without an occurrence in `a`, only its partial suffix matters for what follows: a byte in front of that suffix
starts no match within `a`, so whatever is appended to `a` it starts none either. -/
theorem scanMatch_partialSuffix_append {needle a : Bytes} (b : Bytes) (h : afterFirst needle a = none) :
    scanMatch (partialSuffix needle a ++ b) needle = scanMatch (a ++ b) needle := by
  induction a with
  | nil => rfl
  | cons x a ih =>
    have hneedle := not_prefix_of_afterFirst_cons h
    by_cases hp : x :: a <+: needle
    · rw [partialSuffix_cons_of_prefix hneedle hp]
    · have happend : x :: a <+: x :: (a ++ b) := List.prefix_append (x :: a) b
      have hnone : ¬ needle <+: x :: (a ++ b) := fun hn =>
        (List.prefix_or_prefix_of_prefix hn happend).elim hneedle hp
      have hpartial : ¬ x :: (a ++ b) <+: needle := fun hn => hp (happend.trans hn)
      calc scanMatch (partialSuffix needle (x :: a) ++ b) needle
          = scanMatch (partialSuffix needle a ++ b) needle := by rw [partialSuffix_cons_of_not_prefix hp]
        _ = scanMatch (a ++ b) needle := ih (afterFirst_cons_of_not_prefix hneedle ▸ h)
        _ = scanMatch (x :: a ++ b) needle := (scanMatch_cons_of_not_prefix hnone hpartial).symm

/-- SCAN answers the matcher's pair, the remainder counted (R146). -/
theorem exec_scan_of_scanMatch {s : State} {needle buffer r : Bytes} {found : Bool} (hs : s.cfgStatus = .ready)
    (h : scanMatch buffer needle = (found, r)) :
    exec (.scan needle buffer) s = .next (s.answer (0x00#8 :: flagByte found :: (be16 r.length ++ r))) := by
  rw [exec_scan, h]
  exact operate_of_ok hs

end Sys2Proof.Machine
end

section
/-! The statements of 43_byte_scanner.md. -/
namespace Sys2Proof.Proofs

open Sys2Proof.Machine

/-- Settles O36: the answer is the matcher's, which each clause's premise decides. -/
theorem scanFindsFirstOrKeepsLongest : Obligations.ScanFindsFirstOrKeepsLongest := by
  intro s needle buffer hs hlength
  have hneedle : needle ≠ [] := List.ne_nil_of_length_pos hlength
  refine ⟨fun before after hfirst => ?found, fun suffix hno _ hsuffix hlongest => ?kept, fun hno hnothing => ?none⟩
  case found => exact exec_scan_of_scanMatch hs (scanMatch_of_firstOccurrence hfirst)
  case kept =>
    have hmatch := scanMatch_of_noOccurrence hno
    rw [partialSuffix_eq_of_longest hneedle hsuffix hlongest] at hmatch
    exact exec_scan_of_scanMatch hs hmatch
  case none =>
    have hmatch := scanMatch_of_noOccurrence hno
    rw [hnothing _ (partialSuffix_partial needle buffer hneedle)] at hmatch
    exact exec_scan_of_scanMatch hs hmatch

/-- Settles O37: the remainder is the partial suffix of a buffer without an occurrence. -/
theorem scannerFragmentLaw : Obligations.ScannerFragmentLaw := by
  intro needle a b r _ h
  obtain ⟨hnone, rfl⟩ := scanMatch_eq_false_iff.mp h
  exact scanMatch_partialSuffix_append b hnone

end Sys2Proof.Proofs
end

section
/-! The command codec: a list resolved byte by byte, the shape of a wire command, and BUILD_CMD and PARSE_CMD in their terms. -/
namespace Sys2Proof.Machine

/-! ## Resolving a list -/

/-- A byte looked up by `f`, with the error `err` names for a byte that `f` does not know. -/
def resolve {α : Type} (f : Byte → Option α) (err : Byte → OpError) (b : Byte) : Except OpError α :=
  (f b).elim (.error (err b)) .ok

theorem resolve_of_some {α : Type} {f : Byte → Option α} {b : Byte} {a : α} (err : Byte → OpError) (h : f b = some a) :
    resolve f err b = .ok a := by
  rw [resolve, h, Option.elim_some]

theorem resolve_of_none {α : Type} {f : Byte → Option α} {b : Byte} (err : Byte → OpError) (h : f b = none) :
    resolve f err b = .error (err b) := by
  rw [resolve, h, Option.elim_none]

/-- A list whose bytes all resolve yields what they resolve to, in order. -/
theorem mapM_resolve_of_map_some {α : Type} {f : Byte → Option α} {bs : Bytes} {as : List α} (err : Byte → OpError)
    (h : bs.map f = as.map some) : bs.mapM (resolve f err) = .ok as := by
  induction bs generalizing as with
  | nil => rw [List.map_eq_nil_iff.mp h.symm]; rfl
  | cons b bs ih =>
    obtain ⟨a, as, rfl, ha, has⟩ := List.map_eq_cons_iff.mp h.symm
    rw [List.mapM_cons, resolve_of_some err ha.symm, ih has.symm]
    rfl

/-- The first byte that does not resolve is the error, whatever follows it. -/
theorem mapM_resolve_of_first_none {α : Type} {f : Byte → Option α} {before : Bytes} {b : Byte} (err : Byte → OpError)
    (after : Bytes) (hb : f b = none) (hbefore : ∀ x ∈ before, f x ≠ none) :
    (before ++ b :: after).mapM (resolve f err) = .error (err b) := by
  induction before with
  | nil => rw [List.nil_append, List.mapM_cons, resolve_of_none err hb]; rfl
  | cons x before ih =>
    obtain ⟨hx, hrest⟩ := List.forall_mem_cons.mp hbefore
    obtain ⟨a, ha⟩ := Option.ne_none_iff_exists'.mp hx
    rw [List.cons_append, List.mapM_cons, resolve_of_some err ha, ih hrest]
    rfl

/-! ## The wire command -/

/-- The wire command for a list of canonical registers: a marker pair each, then STREAM_START (R160). -/
def commandOf (registers : Bytes) : Bytes :=
  (registers.flatMap fun r => [Config.marker, r]) ++ [Config.streamStart]

theorem commandOf_length (registers : Bytes) : (commandOf registers).length = 2 * registers.length + 1 := by
  simp [commandOf, Nat.mul_comm]

/-- The bytes of a command that name registers: those before the first STREAM_START that are no marker (R161). -/
def registersOf (bytes : Bytes) : Bytes :=
  (bytes.takeWhile fun b => b != Config.streamStart).filter fun b => b != Config.marker

theorem registersOf_marker_cons (bytes : Bytes) : registersOf (Config.marker :: bytes) = registersOf bytes := rfl

theorem registersOf_streamStart_cons (bytes : Bytes) : registersOf (Config.streamStart :: bytes) = [] := rfl

theorem registersOf_cons {b : Byte} (bytes : Bytes) (hmarker : b ≠ Config.marker) (hstart : b ≠ Config.streamStart) :
    registersOf (b :: bytes) = b :: registersOf bytes := by
  simp [registersOf, hmarker, hstart]

/-- A command gives back the registers it was built for when none of them reads as a marker or as STREAM_START (R163). -/
theorem registersOf_commandOf {registers : Bytes}
    (h : ∀ r ∈ registers, r ≠ Config.marker ∧ r ≠ Config.streamStart) : registersOf (commandOf registers) = registers := by
  induction registers with
  | nil => rfl
  | cons r registers ih =>
    obtain ⟨⟨hmarker, hstart⟩, hrest⟩ := List.forall_mem_cons.mp h
    calc registersOf (commandOf (r :: registers))
        = registersOf (r :: commandOf registers) := registersOf_marker_cons _
      _ = r :: registersOf (commandOf registers) := registersOf_cons _ hmarker hstart
      _ = r :: registers := by rw [ih hrest]

/-! ## BUILD_CMD and PARSE_CMD -/

/-- BUILD_CMD's command is that of the canonical registers of the entries its identifiers name (R160). -/
theorem buildCommand_eq_mapM (c : Config) (ids : Bytes) : buildCommand c ids =
    (ids.mapM (resolve (entryAt c) .unknownParameterIdentifier)).map fun entries => commandOf (entries.map canon) := by
  induction ids with
  | nil => rfl
  | cons id ids ih =>
    rw [buildCommand, List.mapM_cons, ih]
    cases hid : entryAt c id with
    | none => rw [resolve_of_none _ hid]; rfl
    | some e =>
      rw [resolve_of_some _ hid]
      cases ids.mapM (resolve (entryAt c) .unknownParameterIdentifier) <;> rfl

/-- PARSE_CMD resolves the registers of a command (R161). -/
theorem parseCommand_eq_mapM (c : Config) (bytes : Bytes) :
    parseCommand c bytes = (registersOf bytes).mapM (resolve (revmap c) .unresolvableRegisterByte) := by
  induction bytes with
  | nil => rfl
  | cons b bytes ih =>
    rw [parseCommand]
    split_ifs with hmarker hstart
    · rw [hmarker, registersOf_marker_cons, ih]
    · rw [hstart, registersOf_streamStart_cons]; rfl
    · rw [registersOf_cons bytes hmarker hstart, List.mapM_cons, ih]
      cases hb : revmap c b with
      | none => rw [resolve_of_none _ hb]; rfl
      | some id =>
        rw [resolve_of_some _ hb]
        cases (registersOf bytes).mapM (resolve (revmap c) .unresolvableRegisterByte) <;> rfl

/-- BUILD_CMD answers the counted command when every identifier names an entry (R160, R164). -/
theorem exec_buildCmd_of_entries {s : State} {ids : Bytes} {entries : List Entry} (hs : s.cfgStatus = .ready)
    (h : ids.map (entryAt s.config) = entries.map some) : exec (.buildCmd ids) s = .next (s.answer
      ([0x00#8] ++ be16 (commandOf (entries.map canon)).length ++ commandOf (entries.map canon))) := by
  rw [exec_buildCmd, buildCommand_eq_mapM, mapM_resolve_of_map_some _ h]
  exact operate_of_ok hs

/-- PARSE_CMD answers the counted identifiers when every register resolves (R161, R162). -/
theorem exec_parseCmd_of_ids {s : State} {bytes ids : Bytes} (hs : s.cfgStatus = .ready)
    (h : (registersOf bytes).map (revmap s.config) = ids.map some) :
    exec (.parseCmd bytes) s = .next (s.answer ([0x00#8] ++ be16 ids.length ++ ids)) := by
  rw [exec_parseCmd, parseCommand_eq_mapM, mapM_resolve_of_map_some _ h]
  exact operate_of_ok hs

/-- Identifiers that R163 admits have entries, whose canonical bytes the reverse map resolves back to them, in order; none
of those bytes is a marker or STREAM_START. -/
theorem exists_entries_of_canonical {c : Config} {ids : Bytes}
    (h : ∀ id ∈ ids, ∃ e, entryAt c id = some e ∧ revmap c (canon e) = some id ∧
      canon e ≠ Config.marker ∧ canon e ≠ Config.streamStart) :
    ∃ entries : List Entry, ids.map (entryAt c) = entries.map some ∧ (entries.map canon).map (revmap c) = ids.map some ∧
      ∀ r ∈ entries.map canon, r ≠ Config.marker ∧ r ≠ Config.streamStart := by
  induction ids with
  | nil => exact ⟨[], rfl, rfl, List.forall_mem_nil _⟩
  | cons id ids ih =>
    obtain ⟨⟨e, he, hback, hplain⟩, hrest⟩ := List.forall_mem_cons.mp h
    obtain ⟨entries, hentries, hbacks, hplains⟩ := ih hrest
    exact ⟨e :: entries, by simp only [List.map_cons, he, hentries], by simp only [List.map_cons, hback, hbacks],
      List.forall_mem_cons.mpr ⟨hplain, hplains⟩⟩

end Sys2Proof.Machine
end

section
/-! The statements of 44_command_codec.md. -/
namespace Sys2Proof.Proofs

open Sys2Proof.Machine

/-- Settles O38: the answer is the command of the entries' canonical registers, or the first identifier without an entry. -/
theorem buildCmdEmitsPairsInOrder : Obligations.BuildCmdEmitsPairsInOrder := by
  intro s ids hs
  refine ⟨fun hlength hmax => ?decodes, fun entries hentries => ?built, fun before after id hids hid hbefore => ?unknown⟩
  case decodes => exact formatL_encodeList s.config .buildCmd ids hlength (by omega)
  case built =>
    have hlength : entries.length = ids.length := by simpa using (congrArg List.length hentries).symm
    have hcommand : commandOf (entries.map canon) = (entries.flatMap fun e => [0x5A#8, canon e]) ++ [0xF0#8] := by
      rw [commandOf, List.flatMap_map]; rfl
    rw [exec_buildCmd_of_entries hs hentries, commandOf_length, List.length_map, hlength, hcommand,
      ← List.append_assoc]
  case unknown =>
    have hnone : entryAt s.config id = none := List.getElem?_eq_none hid
    have hsome : ∀ x ∈ before, entryAt s.config x ≠ none := fun x hx =>
      mt List.getElem?_eq_none_iff.mp (Nat.not_le.mpr (hbefore x hx))
    rw [exec_buildCmd, buildCommand_eq_mapM, hids, mapM_resolve_of_first_none _ after hnone hsome]
    exact operate_of_error hs

/-- Settles O39: PARSE_CMD resolves `registersOf bytes`. -/
theorem parseCmdResolvesInOrder : Obligations.ParseCmdResolvesInOrder := by
  intro s bytes registers hs
  refine ⟨fun hlength hmax => ?decodes, fun (hregisters : registers = registersOf bytes) =>
    ⟨fun ids hids => ?parsed, fun before after b hsplit hb hbefore => ?unresolved⟩⟩
  case decodes => exact formatL_encodeList s.config .parseCmd bytes hlength (by omega)
  case parsed => exact exec_parseCmd_of_ids hs (hregisters ▸ hids)
  case unresolved =>
    have hregs : registersOf bytes = before ++ b :: after := hregisters.symm.trans hsplit
    rw [exec_parseCmd, parseCommand_eq_mapM, hregs, mapM_resolve_of_first_none _ after hb hbefore]
    exact operate_of_error hs

/-- Settles O40: the command's registers are the entries' canonical bytes, which the reverse map resolves back. -/
theorem commandRoundTripLaw : Obligations.CommandRoundTripLaw := by
  intro s ids hs _ h
  obtain ⟨entries, hentries, hback, hplain⟩ := exists_entries_of_canonical h
  exact ⟨commandOf (entries.map canon), exec_buildCmd_of_entries hs hentries,
    exec_parseCmd_of_ids hs (by rw [registersOf_commandOf hplain]; exact hback)⟩

end Sys2Proof.Proofs
end

section
/-! The frame decoder: the value of each enabled parameter in a frame, and DECODE in its terms (45_frame_decoder.md R180 to
R185). -/
namespace Sys2Proof.Machine

/-! ## The raw value of an entry depends on its registers only -/

/-- A frame that reaches every register of an entry has a raw value for it (R120 to R123). -/
theorem exists_unscaled_of_reached (id : Byte) {e : Entry} {frame : Bytes} (h : ∀ r ∈ regs e, r.toNat < frame.length) :
    ∃ raw, unscaled id e frame = .ok raw := by
  cases hv : e.variant with
  | single r =>
    have hr : r.toNat < frame.length := by simpa [regs, hv] using h
    exact ⟨_, unscaled_of_single id hv (List.getElem?_eq_getElem hr)⟩
  | dual m l =>
    obtain ⟨hm, hl⟩ : m.toNat < frame.length ∧ l.toNat < frame.length := by simpa [regs, hv] using h
    exact ⟨_, unscaled_of_dual id hv (List.getElem?_eq_getElem hm) (List.getElem?_eq_getElem hl)⟩
  | bit r b =>
    have hr : r.toNat < frame.length := by simpa [regs, hv] using h
    exact ⟨_, unscaled_of_bit id hv (List.getElem?_eq_getElem hr)⟩

/-- A register that a frame does not reach makes the raw value's error, at the first such register (R120 to R123). -/
theorem exists_unscaled_error (id : Byte) {e : Entry} {frame : Bytes} (h : ∃ r ∈ regs e, frame.length ≤ r.toNat) :
    ∃ a ∈ regs e, frame.length ≤ a.toNat ∧ unscaled id e frame = .error (.frameTooShort id a) := by
  obtain ⟨a, ha⟩ : ∃ a, (regs e).find? (fun r => frame.length ≤ r.toNat) = some a :=
    Option.isSome_iff_exists.mp (List.find?_isSome.mpr (by simpa using h))
  exact ⟨a, List.mem_of_find?_eq_some ha, by simpa using List.find?_some ha, unscaled_of_find?_regs id ha⟩

/-- A read tells two frames apart by the byte at its address only (R60). -/
theorem frameByte_congr (id : Byte) {a : Byte} {f g : Bytes} (h : f[a.toNat]? = g[a.toNat]?) :
    frameByte id a f = frameByte id a g := by
  rw [frameByte, frameByte, h]

/-- Two frames that agree at every register of an entry have the same raw value, or the same error, for it (R121 to R123). -/
theorem unscaled_congr (id : Byte) {e : Entry} {f g : Bytes} (h : ∀ r ∈ regs e, f[r.toNat]? = g[r.toNat]?) :
    unscaled id e f = unscaled id e g := by
  have hread (r : Byte) (hr : r ∈ regs e) : frameByte id r f = frameByte id r g := frameByte_congr id (h r hr)
  cases hv : e.variant with
  | single r => simp only [unscaled, hv, hread r (by simp [regs, hv])]
  | dual m l => simp only [unscaled, hv, hread m (by simp [regs, hv]), hread l (by simp [regs, hv])]
  | bit r b => simp only [unscaled, hv, hread r (by simp [regs, hv])]

/-! ## The value of a parameter -/

/-- Entry `i` of the catalog has the value `v` in the frame (R128). -/
def HasValue (c : Config) (frame : Bytes) (i : Nat) (v : F64) : Prop :=
  ∃ e raw, c.cat[i]? = some e ∧ unscaled (BitVec.ofNat 8 i) e frame = .ok raw ∧ scaleValue e raw.toNat = v

theorem exists_hasValue_of_reached {c : Config} {frame : Bytes} {i : Nat} {e : Entry} (he : c.cat[i]? = some e)
    (h : ∀ r ∈ regs e, r.toNat < frame.length) : ∃ v, HasValue c frame i v := by
  obtain ⟨raw, hraw⟩ := exists_unscaled_of_reached (BitVec.ofNat 8 i) h
  exact ⟨_, e, raw, he, hraw, rfl⟩

/-- The identifier byte of an entry of a CFD's catalog finds the entry. -/
theorem getElem?_toNat_ofNat {c : Config} {i : Nat} {e : Entry} (hc : c.cat.length ≤ 255) (he : c.cat[i]? = some e) :
    c.cat[(BitVec.ofNat 8 i).toNat]? = some e := by
  obtain ⟨hi, -⟩ := List.getElem?_eq_some_iff.mp he
  rw [byte_toNat_ofNat (by omega), he]

/-- VALUE answers the value (R128). -/
theorem exec_value_of_hasValue {s : State} {frame : Bytes} {i : Nat} {v : F64} (hs : s.cfgStatus = .ready)
    (hc : s.config.cat.length ≤ 255) (h : HasValue s.config frame i v) :
    exec (.value (BitVec.ofNat 8 i) frame) s = .next (s.answer (0x00#8 :: be64 v)) := by
  obtain ⟨e, raw, he, hraw, rfl⟩ := h
  rw [exec_value, rawOf_of_unscaled (getElem?_toNat_ofNat hc he) hraw]
  exact operate_of_ok hs

/-- VALUE answers the error of the raw value it reads (R128, R225). -/
theorem exec_value_of_unscaled_error {s : State} {frame : Bytes} {i : Nat} {e : Entry} {r : OpError}
    (hs : s.cfgStatus = .ready) (hc : s.config.cat.length ≤ 255) (he : s.config.cat[i]? = some e)
    (h : unscaled (BitVec.ofNat 8 i) e frame = .error r) :
    exec (.value (BitVec.ofNat 8 i) frame) s = .next (s.answer (errorResponse r)) := by
  refine exec_of_rawOf_error (.inr rfl) hs ?_
  simp only [rawOf, entryAt, getElem?_toNat_ofNat hc he, h]

/-! ## The values of a list of parameters -/

/-- Parameters that all have a value come first in the answer, in order, and what follows them decides the rest (R180). -/
theorem valuesOf_append_of_hasValue {c : Config} {frame : Bytes} {ids : List Nat} {v : Nat → F64} (rest : List Nat)
    (h : ∀ i ∈ ids, HasValue c frame i (v i)) :
    valuesOf c frame (ids ++ rest) =
      (valuesOf c frame rest).map ((ids.map fun i => (BitVec.ofNat 8 i, v i)) ++ ·) := by
  induction ids with
  | nil => cases hrest : valuesOf c frame rest <;> simp [hrest, Except.map]
  | cons i ids ih =>
    obtain ⟨⟨e, raw, he, hraw, hv⟩, hids⟩ := List.forall_mem_cons.mp h
    simp only [List.cons_append, valuesOf, he, hraw, hv, ih hids]
    cases valuesOf c frame rest <;> rfl

/-- The first parameter that reads past the frame is the error, and there is no value (R182). -/
theorem valuesOf_of_first_error {c : Config} {frame : Bytes} {before : List Nat} {i : Nat} {e : Entry} {r : OpError}
    (after : List Nat) (hbefore : ∀ j ∈ before, ∃ v, HasValue c frame j v) (he : c.cat[i]? = some e)
    (h : unscaled (BitVec.ofNat 8 i) e frame = .error r) : valuesOf c frame (before ++ i :: after) = .error r := by
  choose! v hv using hbefore
  simp only [valuesOf_append_of_hasValue (i :: after) hv, valuesOf, he, h, Except.map]

/-- Two frames that agree at every register of the named entries give the same values, or the same error (R181). -/
theorem valuesOf_congr {c : Config} {f g : Bytes} {ids : List Nat}
    (h : ∀ i ∈ ids, ∀ e, c.cat[i]? = some e → ∀ r ∈ regs e, f[r.toNat]? = g[r.toNat]?) :
    valuesOf c f ids = valuesOf c g ids := by
  induction ids with
  | nil => rfl
  | cons i ids ih =>
    obtain ⟨hi, hids⟩ := List.forall_mem_cons.mp h
    cases he : c.cat[i]? with
    | none => simp only [valuesOf, he, ih hids]
    | some e => simp only [valuesOf, he, unscaled_congr _ (hi e he), ih hids]

/-! ## DECODE -/

/-- The enabled identifiers are those of the catalog whose bit of EN is set. -/
theorem enabledIds_eq_filter_range (s : State) :
    enabledIds s = (List.range s.config.cat.length).filter fun i => s.en[i]? == some true := by
  rw [enabledIds, idList, Config.size, funext (enBit_eq_getElem? s)]

theorem mem_enabledIds (s : State) (i : Nat) :
    i ∈ enabledIds s ↔ i < s.config.cat.length ∧ s.en[i]? = some true := by
  rw [enabledIds_eq_filter_range, List.mem_filter, List.mem_range, beq_iff_eq]

/-- DECODE answers the number of pairs and the pairs (R180). -/
theorem exec_decodeFrame_of_values {s : State} {frame : Bytes} {out : List (Byte × F64)} (hs : s.cfgStatus = .ready)
    (h : valuesOf s.config frame (enabledIds s) = .ok out) :
    exec (.decodeFrame frame) s = .next (s.answer (0x00#8 :: BitVec.ofNat 8 out.length :: out.flatMap pairBytes)) := by
  rw [exec_decodeFrame, h]
  exact operate_of_ok hs

/-- DECODE answers the error of the values (R182). -/
theorem exec_decodeFrame_of_error {s : State} {frame : Bytes} {r : OpError} (hs : s.cfgStatus = .ready)
    (h : valuesOf s.config frame (enabledIds s) = .error r) :
    exec (.decodeFrame frame) s = .next (s.answer (errorResponse r)) := by
  rw [exec_decodeFrame, h]
  exact operate_of_error hs

/-- DECODE writes nothing but its response (R64). -/
theorem exec_decodeFrame_answers (frame : Bytes) (s : State) :
    ∃ bytes : Bytes, exec (.decodeFrame frame) s = .next (s.answer bytes) := by
  cases hs : s.cfgStatus with
  | configFault id => exact ⟨_, by rw [exec_decodeFrame, operate_of_fault hs]⟩
  | ready =>
    cases h : valuesOf s.config frame (enabledIds s) with
    | ok out => exact ⟨_, exec_decodeFrame_of_values hs h⟩
    | error r => exact ⟨_, exec_decodeFrame_of_error hs h⟩

end Sys2Proof.Machine
end

section
/-! The statements of 45_frame_decoder.md. -/
namespace Sys2Proof.Proofs

open Sys2Proof.Machine

/-- Settles O41: every enabled entry has a value, which VALUE answers and DECODE lists. -/
theorem decodeAnswersEveryEnabledValue : Obligations.DecodeAnswersEveryEnabledValue := by
  intro s frame hs hc hreached
  have hvalue : ∀ i ∈ enabledIds s, ∃ v, HasValue s.config frame i v := fun i hi => by
    obtain ⟨hlt, hen⟩ := (mem_enabledIds s i).mp hi
    have he := List.getElem?_eq_getElem hlt
    exact exists_hasValue_of_reached he (hreached i _ hen he)
  choose! v hv using hvalue
  have hout : valuesOf s.config frame (enabledIds s) = .ok ((enabledIds s).map fun i => (BitVec.ofNat 8 i, v i)) := by
    simpa [valuesOf, Except.map] using valuesOf_append_of_hasValue [] hv
  refine ⟨(enabledIds s).map fun i => (i, v i), ?ids, ?values, ?decode⟩
  case ids => simp [enabledIds_eq_filter_range, Function.comp_def]
  case values =>
    intro p hp
    obtain ⟨i, hi, rfl⟩ := List.mem_map.mp hp
    exact exec_value_of_hasValue hs hc (hv i hi)
  case decode =>
    rw [exec_decodeFrame_of_values hs hout]
    simp [List.flatMap_map, pairBytes]

/-- Settles O42: the entries before the short one have values, and its error is the one VALUE answers. -/
theorem decodeFailsWhole : Obligations.DecodeFailsWhole := by
  intro s frame before after i e hs hc hids hbefore he hshort
  obtain ⟨reg, hreg, hlength, herror⟩ := exists_unscaled_error (BitVec.ofNat 8 i) hshort
  have henabled : enabledIds s = before ++ i :: after := (enabledIds_eq_filter_range s).trans hids
  have hvalue : ∀ j ∈ before, ∃ v, HasValue s.config frame j v := fun j hj => by
    obtain ⟨hlt, -⟩ := (mem_enabledIds s j).mp (henabled ▸ List.mem_append_left _ hj)
    have hf := List.getElem?_eq_getElem hlt
    exact exists_hasValue_of_reached hf (hbefore j hj _ hf)
  have hout : valuesOf s.config frame (enabledIds s) = .error (.frameTooShort (BitVec.ofNat 8 i) reg) := by
    rw [henabled, valuesOf_of_first_error after hvalue he herror]
  exact ⟨reg, hreg, hlength, exec_value_of_unscaled_error hs hc he herror, exec_decodeFrame_of_error hs hout⟩

/-- Settles O43: the values of the enabled entries are the same in both frames, and DECODE answers from them alone. -/
theorem decodeReadsEnabledRegistersOnly : Obligations.DecodeReadsEnabledRegistersOnly := by
  intro s f g h
  have hvalues : valuesOf s.config f (enabledIds s) = valuesOf s.config g (enabledIds s) :=
    valuesOf_congr fun i hi e he => h i e ((mem_enabledIds s i).mp hi).2 he
  have hsame : exec (.decodeFrame f) s = exec (.decodeFrame g) s := by
    rw [exec_decodeFrame, exec_decodeFrame, hvalues]
  obtain ⟨bytes, hbytes⟩ := exec_decodeFrame_answers g s
  exact ⟨bytes, hsame.trans hbytes, hbytes⟩

end Sys2Proof.Proofs
end

section
/-! The two needles of the synchronizer: where the scanner finds the marker 0x5A and the init marker, and what it keeps of a
buffer that ends inside an init marker (46_stream_synchronizer.md R201, R202). -/
namespace Sys2Proof.Machine

/-- SCAN_MATCH says "found" exactly with the bytes behind the first occurrence (R141). -/
theorem scanMatch_eq_true_iff {needle buf after : Bytes} :
    scanMatch buf needle = (true, after) ↔ ∃ before, FirstOccurrence needle buf before after := by
  refine ⟨fun h => ?_, fun ⟨before, hfirst⟩ => scanMatch_of_firstOccurrence hfirst⟩
  unfold scanMatch at h
  split at h
  case h_1 after' hafter =>
    obtain rfl := (Prod.mk.inj h).2
    exact firstOccurrence_of_afterFirst hafter
  case h_2 => cases h

theorem noOccurrence_iff_not_infix (needle whole : Bytes) : NoOccurrence needle whole ↔ ¬ needle <:+: whole := by
  simp only [NoOccurrence, List.IsInfix, not_exists, ne_comm, ne_eq]

theorem afterFirst_eq_none_of_not_infix {needle whole : Bytes} (h : ¬ needle <:+: whole) : afterFirst needle whole = none :=
  (scanMatch_eq_false_iff.mp (scanMatch_of_noOccurrence ((noOccurrence_iff_not_infix needle whole).mpr h))).1

/-- What occurs occurs first somewhere. -/
theorem exists_firstOccurrence_of_infix {needle whole : Bytes} (h : needle <:+: whole) :
    ∃ before after, FirstOccurrence needle whole before after := by
  cases hafter : afterFirst needle whole with
  | none => exact absurd h ((noOccurrence_iff_not_infix needle whole).mp (noOccurrence_of_afterFirst hafter))
  | some after =>
    obtain ⟨before, hfirst⟩ := firstOccurrence_of_afterFirst hafter
    exact ⟨before, after, hfirst⟩

/-- An occurrence of one byte is the first one exactly when the byte does not stand before it. -/
theorem firstOccurrence_singleton_iff {x : Byte} {whole before after : Bytes} :
    FirstOccurrence [x] whole before after ↔ whole = before ++ x :: after ∧ x ∉ before := by
  simp only [FirstOccurrence, List.append_assoc, List.singleton_append]
  refine and_congr_right fun heq => ⟨fun hmin hx => ?_, fun hx before' after' heq' => ?_⟩
  · obtain ⟨front, back, rfl⟩ := List.append_of_mem hx
    have := hmin front (back ++ x :: after) (by simp [heq])
    simp at this
  · by_contra! hlt
    have hget : before[before'.length]? = some x := by
      have := congrArg (·[before'.length]?) (heq.symm.trans heq')
      simpa [List.getElem?_append_left hlt] using this
    exact hx (List.mem_of_getElem? hget)

/-- The proper prefixes of the init marker are the three partial markers of R201. -/
theorem partialMatch_initMarker_iff {whole kept : Bytes} : PartialMatch Config.initMarker whole kept ↔
    kept <:+ whole ∧ (kept = [0xFF#8, 0xFF#8] ∨ kept = [0xFF#8] ∨ kept = []) := by
  refine and_congr_right fun _ => ⟨fun ⟨hprefix, hlength⟩ => ?_, ?_⟩
  · obtain rfl | ⟨tail, rfl, htail⟩ := List.prefix_cons_iff.mp hprefix
    · exact .inr (.inr rfl)
    · obtain rfl | ⟨tail', rfl, htail'⟩ := List.prefix_cons_iff.mp htail
      · exact .inr (.inl rfl)
      · have : tail' = [] := List.eq_nil_of_length_eq_zero (by simp [Config.initMarker] at hlength; omega)
        exact .inl (by rw [this])
  · rintro (rfl | rfl | rfl) <;> decide

/-- The longest partial marker that ends the buffer is kept (R201). -/
theorem partialSuffix_initMarker {whole kept : Bytes}
    (h : kept = [0xFF#8, 0xFF#8] ∧ [0xFF#8, 0xFF#8] <:+ whole ∨
      kept = [0xFF#8] ∧ [0xFF#8] <:+ whole ∧ ¬ [0xFF#8, 0xFF#8] <:+ whole ∨
      kept = [] ∧ ¬ [0xFF#8] <:+ whole) :
    partialSuffix Config.initMarker whole = kept := by
  have hnone (hone : ¬ [0xFF#8] <:+ whole) : ¬ [0xFF#8, 0xFF#8] <:+ whole := fun htwo =>
    hone ((List.suffix_cons 0xFF#8 [0xFF#8]).trans htwo)
  refine partialSuffix_eq_of_longest (by decide) (partialMatch_initMarker_iff.mpr ?kept) fun other hother => ?longest
  case kept =>
    obtain ⟨rfl, htwo⟩ | ⟨rfl, hone, -⟩ | ⟨rfl, -⟩ := h
    · exact ⟨htwo, .inl rfl⟩
    · exact ⟨hone, .inr (.inl rfl)⟩
    · exact ⟨List.nil_suffix, .inr (.inr rfl)⟩
  case longest =>
    obtain ⟨hsuffix, rfl | rfl | rfl⟩ := partialMatch_initMarker_iff.mp hother
    · obtain ⟨rfl, -⟩ | ⟨-, -, htwo⟩ | ⟨-, hone⟩ := h
      · exact le_rfl
      · exact absurd hsuffix htwo
      · exact absurd hsuffix (hnone hone)
    · obtain ⟨rfl, -⟩ | ⟨rfl, -⟩ | ⟨-, hone⟩ := h
      · decide
      · exact le_rfl
      · exact absurd hsuffix hone
    · exact Nat.zero_le _

end Sys2Proof.Machine
end

section
/-! One synchronizer step, and the push that makes it (46_stream_synchronizer.md R201, R202, R204). -/
namespace Sys2Proof.Machine

/-! ## The step of each state -/

/-- R201, the init marker found. -/
theorem stepU_of_firstOccurrence {buf before after : Bytes} (h : FirstOccurrence Config.initMarker buf before after) :
    stepU buf = ⟨.initialized, after, none⟩ := by
  simp only [stepU, scanMatch_of_firstOccurrence h]

/-- R201, no init marker. -/
theorem stepU_of_noOccurrence {buf : Bytes} (h : NoOccurrence Config.initMarker buf) :
    stepU buf = ⟨.uninitialized, partialSuffix Config.initMarker buf, none⟩ := by
  simp only [stepU, scanMatch_of_noOccurrence h]

/-- R207: of a stream without an init marker the partial marker at its end is all STEP_U needs. -/
theorem stepU_partialSuffix_append {stream : Bytes} (chunk : Bytes) (h : ¬ Config.initMarker <:+: stream) :
    stepU (partialSuffix Config.initMarker stream ++ chunk) = stepU (stream ++ chunk) := by
  simp only [stepU, scanMatch_partialSuffix_append chunk (afterFirst_eq_none_of_not_infix h)]

/-- R202, a byte after the first 0x5A. -/
theorem stepI_of_pair {buf before after : Bytes} {c : Byte} (h : buf = before ++ Config.marker :: c :: after)
    (hbefore : Config.marker ∉ before) : stepI buf = ⟨.initialized, after, some c⟩ := by
  simp only [stepI, scanMatch_of_firstOccurrence (firstOccurrence_singleton_iff.mpr ⟨h, hbefore⟩)]

/-- Everything STEP_I can do: hold the whole buffer, or dispatch the byte after the first 0x5A (R202). -/
theorem stepI_cases (buf : Bytes) : stepI buf = ⟨.initialized, buf, none⟩ ∨
    ∃ before c after, buf = before ++ Config.marker :: c :: after ∧ Config.marker ∉ before ∧
      stepI buf = ⟨.initialized, after, some c⟩ := by
  unfold stepI
  split
  case h_1 c after hmatch =>
    obtain ⟨before, hfirst⟩ := scanMatch_eq_true_iff.mp hmatch
    obtain ⟨heq, hbefore⟩ := firstOccurrence_singleton_iff.mp hfirst
    exact .inr ⟨before, c, after, heq, hbefore, rfl⟩
  case h_2 => exact .inl rfl
  case h_3 => exact .inl rfl

/-- R202, no 0x5A with a byte after it. -/
theorem stepI_of_no_pair {buf : Bytes} (h : ∀ (before after : Bytes) (c : Byte), buf ≠ before ++ Config.marker :: c :: after) :
    stepI buf = ⟨.initialized, buf, none⟩ := by
  obtain hheld | ⟨before, c, after, heq, -⟩ := stepI_cases buf
  · exact hheld
  · exact absurd heq (h before after c)

/-- STEP_I stays in INITIALIZED (R206). -/
theorem stepI_state (buf : Bytes) : (stepI buf).state = .initialized := by
  obtain h | ⟨_, _, _, -, -, h⟩ := stepI_cases buf <;> rw [h]

/-! ## The push -/

/-- A push whose buffer fits writes what the step leaves and answers it (R204). -/
theorem exec_syncPush_of_le {s : State} {chunk buf : Bytes} {st st' : SyncState} {d : Option Byte}
    (hs : s.cfgStatus = .ready) (hstate : s.syncState = st) (hstep : syncStep st (s.syncBuf ++ chunk) = ⟨st', buf, d⟩)
    (hfits : buf.length ≤ s.config.syncBufCap) :
    exec (.syncPush chunk) s = .next ((s.setSync st' buf).answer (0x00#8 :: syncStateByte st' :: dispatchBytes d)) := by
  simp only [exec_syncPush, pushBody, hstate, hstep, if_neg (Nat.not_lt.mpr hfits)]
  exact operate_of_ok hs

/-- Where the step keeps SYNC_STATE such a push writes SYNC_BUF alone. -/
theorem exec_syncPush_writes_syncBuf {s : State} {chunk buf : Bytes} {st : SyncState} {d : Option Byte}
    (hs : s.cfgStatus = .ready) (hstate : s.syncState = st) (hstep : syncStep st (s.syncBuf ++ chunk) = ⟨st, buf, d⟩)
    (hfits : buf.length ≤ s.config.syncBufCap) : exec (.syncPush chunk) s =
      .next (State.answer { s with syncBuf := buf } (0x00#8 :: syncStateByte st :: dispatchBytes d)) := by
  rw [exec_syncPush_of_le hs hstate hstep hfits, ← hstate]
  rfl

/-- A push whose buffer would be longer than SYNC_BUF_CAP raises SyncBufferOverflow (R204, R229). -/
theorem exec_syncPush_of_lt {s : State} {chunk buf : Bytes} {st st' : SyncState} {d : Option Byte}
    (hs : s.cfgStatus = .ready) (hstate : s.syncState = st) (hstep : syncStep st (s.syncBuf ++ chunk) = ⟨st', buf, d⟩)
    (hlong : s.config.syncBufCap < buf.length) : exec (.syncPush chunk) s = .next (s.answer [0x07#8]) := by
  simp only [exec_syncPush, pushBody, hstate, hstep, if_pos hlong]
  exact operate_of_error hs

/-- Everything a push can do: answer an error and write nothing, or write what the step leaves and answer it. -/
theorem exec_syncPush_cases {s t : State} {chunk : Bytes} (h : exec (.syncPush chunk) s = .next t) :
    (∃ status more, status ≠ 0x00#8 ∧ t = s.answer (status :: more)) ∨
    ∃ r, syncStep s.syncState (s.syncBuf ++ chunk) = r ∧
      t = (s.setSync r.state r.buf).answer (0x00#8 :: syncStateByte r.state :: dispatchBytes r.dispatch) := by
  rw [exec_syncPush] at h
  obtain ⟨id, -, rfl⟩ | ⟨-, u, payload, hbody, rfl⟩ | ⟨-, r, -, rfl⟩ := operate_cases h
  · exact .inl ⟨0x04#8, [id], by decide, rfl⟩
  · simp only [pushBody] at hbody
    split at hbody
    · cases hbody
    · cases hbody
      exact .inr ⟨_, rfl, rfl⟩
  · refine .inl ⟨errorStatus r, errorInfo r, fun hzero => ?_, rfl⟩
    have := (errorStatus_range r).1
    simp [hzero] at this

/-- A push in INITIALIZED stays there (R206). -/
theorem exec_syncPush_keeps_initialized {s t : State} {chunk : Bytes} (hs : s.syncState = .initialized)
    (h : exec (.syncPush chunk) s = .next t) : t.syncState = .initialized := by
  obtain ⟨_, _, -, rfl⟩ | ⟨r, hstep, rfl⟩ := exec_syncPush_cases h
  · exact hs
  · rw [hs] at hstep
    exact hstep ▸ stepI_state _

end Sys2Proof.Machine
end

section
/-! What an instruction can write: ENABLE one bit of EN, a push (and a wire token, which is one) the synchronizer, every other
instruction nothing but its response (10_state.md R36, 20_memory.md R64). -/
namespace Sys2Proof.Machine

/-- An operation whose body hands its state on writes nothing but the response. -/
theorem operate_map_answers (s : State) (out : Except OpError Bytes) :
    ∃ bytes : Bytes, operate s (out.map (Prod.mk s)) = .next (s.answer bytes) := by
  cases hs : s.cfgStatus with
  | configFault id => exact ⟨_, operate_of_fault hs _⟩
  | ready =>
    cases out with
    | ok payload => exact ⟨_, operate_of_ok hs⟩
    | error r => exact ⟨_, operate_of_error hs⟩

theorem ReadsConfigOnly.answers {i : Instr} (h : ReadsConfigOnly i) (s : State) :
    ∃ bytes : Bytes, exec i s = .next (s.answer bytes) := by
  obtain ⟨out, hout⟩ := h
  rw [hout]
  exact operate_map_answers s (out s.config)

/-- LOOKUP_ID writes nothing but its response. -/
theorem exec_lookupId_answers (id : Byte) (s : State) : ∃ bytes : Bytes, exec (.lookupId id) s = .next (s.answer bytes) := by
  rw [exec_lookupId]
  cases entryAt s.config id with
  | some e => exact operate_map_answers s (.ok (desc e))
  | none => exact operate_map_answers s (.error (.unknownParameterIdentifier id))

/-- ENABLE writes one bit of EN, or nothing (R112). -/
theorem exec_enable_cases (id : Byte) (v : Bool) (s : State) :
    (∃ bytes : Bytes, exec (.enable id v) s = .next (s.answer bytes)) ∨
    exec (.enable id v) s = .next ((s.setEn id.toNat v).answer [0x00#8]) := by
  cases hs : s.cfgStatus with
  | configFault fault => exact .inl ⟨_, by rw [exec_enable, operate_of_fault hs]⟩
  | ready =>
    obtain hid | hid := Nat.lt_or_ge id.toNat s.config.cat.length
    · exact .inr (exec_enable_of_lt v hs hid)
    · exact .inl ⟨_, exec_enable_of_le v hs hid⟩

/-- Every instruction answers and writes nothing else, or is an ENABLE that writes its bit, or is a push. -/
theorem exec_cases (i : Instr) (s : State) :
    (∃ bytes : Bytes, exec i s = .next (s.answer bytes)) ∨
    (∃ id v, i = .enable id v ∧ exec i s = .next ((s.setEn id.toNat v).answer [0x00#8])) ∨
    (∃ chunk, (i = .syncPush chunk ∨ i.isWire = true) ∧ exec i s = exec (.syncPush chunk) s) := by
  have hpush (hwire : i.isWire = true) :
      ∃ chunk, (i = .syncPush chunk ∨ i.isWire = true) ∧ exec i s = exec (.syncPush chunk) s :=
    ⟨encode i, .inr hwire, exec_wire i s hwire⟩
  cases i with
  | enable id v => exact (exec_enable_cases id v s).imp_right fun h => .inl ⟨id, v, rfl, h⟩
  | enumAll => exact .inl (operate_map_answers s (.ok _))
  | enumEnabled => exact .inl (operate_map_answers s (.ok _))
  | countEnabled => exact .inl (operate_map_answers s (.ok _))
  | lookupId id => exact .inl (exec_lookupId_answers id s)
  | lookupReg b => exact .inl (operate_map_answers s (.ok _))
  | extract id frame => exact .inl ((ReadsConfigOnly.extract id frame).answers s)
  | value id frame => exact .inl ((ReadsConfigOnly.value id frame).answers s)
  | scan needle buffer => exact .inl (operate_map_answers s (.ok _))
  | buildCmd ids => exact .inl ((ReadsConfigOnly.buildCmd ids).answers s)
  | parseCmd bytes => exact .inl ((ReadsConfigOnly.parseCmd bytes).answers s)
  | decodeFrame frame => exact .inl (exec_decodeFrame_answers frame s)
  | syncPush chunk => exact .inr (.inr ⟨chunk, .inl rfl, rfl⟩)
  | syncStatus => exact .inl (operate_map_answers s (.ok _))
  | wireMarkerPair r => exact .inr (.inr (hpush rfl))
  | wireStreamStart => exact .inr (.inr (hpush rfl))
  | wireInit => exact .inr (.inr (hpush rfl))
  | wireInitResponse => exact .inr (.inr (hpush rfl))
  | wireStreamStop => exact .inr (.inr (hpush rfl))
  | wireStopAck => exact .inr (.inr (hpush rfl))

/-- Every instruction keeps INITIALIZED (R206). -/
theorem exec_keeps_initialized {i : Instr} {s t : State} (hs : s.syncState = .initialized) (h : exec i s = .next t) :
    t.syncState = .initialized := by
  obtain ⟨bytes, hi⟩ | ⟨id, v, -, hi⟩ | ⟨chunk, -, hi⟩ := exec_cases i s
  · cases hi.symm.trans h
    exact hs
  · cases hi.symm.trans h
    exact hs
  · exact exec_syncPush_keeps_initialized hs (hi ▸ h)

/-- Whatever becomes of an accepted packet keeps INITIALIZED (R206). -/
theorem serve_keeps_initialized {p : Packet} {s t : State} (hs : s.syncState = .initialized) (h : serve p s = .next t) :
    t.syncState = .initialized := by
  obtain ⟨id, -, hserve⟩ | ⟨-, r, -, hserve⟩ | ⟨-, i, -, hserve⟩ := serve_cases p s
  · cases hserve.symm.trans h
    exact hs
  · cases hserve.symm.trans h
    exact hs
  · exact exec_keeps_initialized hs (hserve ▸ h)

end Sys2Proof.Machine
end

section
/-! A stream pushed from reset in chunks, no push raising (46_stream_synchronizer.md R207): the state the synchronizer is in is
the one the whole stream so far determines. -/
namespace Sys2Proof.Machine

/-- Every response given so far is an OK. -/
def AllOk (s : State) : Prop := ∀ a ∈ s.responses, a.bytes.head? = some 0x00#8

/-- The synchronizer has seen exactly `stream`: INITIALIZED when the init marker occurs in it, and before that UNINITIALIZED with
the partial marker at its end held. -/
def Follows (s : State) (stream : Bytes) : Prop :=
  (Config.initMarker <:+: stream ∧ s.syncState = .initialized) ∨
  (¬ Config.initMarker <:+: stream ∧ s.syncState = .uninitialized ∧ s.syncBuf = partialSuffix Config.initMarker stream)

theorem Follows.resetOf (c : Config) : Follows (State.resetOf c) [] := .inr ⟨by decide, rfl, rfl⟩

theorem Follows.initialized_iff {s : State} {stream : Bytes} (h : Follows s stream) :
    s.syncState = .initialized ↔ Config.initMarker <:+: stream := by
  obtain ⟨hfound, hstate⟩ | ⟨hnot, hstate, -⟩ := h
  · exact iff_of_true hstate hfound
  · exact iff_of_false (by simp [hstate]) hnot

/-- A push answered OK makes the synchronizer's step, and the responses before it are as they were. -/
theorem exec_syncPush_of_allOk {s t : State} {chunk : Bytes} (h : exec (.syncPush chunk) s = .next t) (hok : AllOk t) :
    AllOk s ∧ t.syncState = (syncStep s.syncState (s.syncBuf ++ chunk)).state ∧
      t.syncBuf = (syncStep s.syncState (s.syncBuf ++ chunk)).buf := by
  obtain ⟨status, more, hstatus, rfl⟩ | ⟨r, rfl, rfl⟩ := exec_syncPush_cases h
  · have := hok ⟨s.serving, status :: more⟩ (by simp)
    exact absurd (by simpa using this) hstatus
  · exact ⟨fun a ha => hok a (List.mem_append_left _ ha), rfl, rfl⟩

/-- Before the init marker, a push answered OK leaves what STEP_U makes of the whole stream (R145, R201). -/
theorem exec_syncPush_stepU {s t : State} {stream chunk : Bytes} (hs : Follows s stream)
    (hnot : ¬ Config.initMarker <:+: stream) (h : exec (.syncPush chunk) s = .next t) (hok : AllOk t) :
    t.syncState = (stepU (stream ++ chunk)).state ∧ t.syncBuf = (stepU (stream ++ chunk)).buf := by
  obtain ⟨hfound, -⟩ | ⟨-, hstate, hbuf⟩ := hs
  · exact absurd hfound hnot
  · obtain ⟨-, hstep⟩ := exec_syncPush_of_allOk h hok
    rwa [hstate, hbuf, syncStep, stepU_partialSuffix_append chunk hnot] at hstep

/-- The push that completes the first init marker leaves held exactly the bytes after it (R207). -/
theorem Follows.completes {s t : State} {stream chunk : Bytes} (hs : Follows s stream)
    (hnot : ¬ Config.initMarker <:+: stream) (hfound : Config.initMarker <:+: stream ++ chunk)
    (h : exec (.syncPush chunk) s = .next t) (hok : AllOk t) :
    t.syncState = .initialized ∧ ∃ before, FirstOccurrence Config.initMarker (stream ++ chunk) before t.syncBuf := by
  obtain ⟨before, after, hfirst⟩ := exists_firstOccurrence_of_infix hfound
  obtain ⟨hstate, hbuf⟩ := exec_syncPush_stepU hs hnot h hok
  rw [stepU_of_firstOccurrence hfirst] at hstate hbuf
  exact ⟨hstate, before, hbuf ▸ hfirst⟩

/-- A push answered OK extends the stream by its chunk. -/
theorem Follows.push {s t : State} {stream chunk : Bytes} (hs : Follows s stream)
    (h : exec (.syncPush chunk) s = .next t) (hok : AllOk t) : Follows t (stream ++ chunk) := by
  by_cases hbefore : Config.initMarker <:+: stream
  · have hinfix := hbefore.trans (List.prefix_append stream chunk).isInfix
    exact .inl ⟨hinfix, exec_syncPush_keeps_initialized (hs.initialized_iff.mpr hbefore) h⟩
  · by_cases hafter : Config.initMarker <:+: stream ++ chunk
    · exact .inl ⟨hafter, (hs.completes hbefore hafter h hok).1⟩
    · obtain ⟨hstate, hbuf⟩ := exec_syncPush_stepU hs hbefore h hok
      rw [stepU_of_noOccurrence ((noOccurrence_iff_not_infix _ _).mpr hafter)] at hstate hbuf
      exact .inr ⟨hafter, hstate, hbuf⟩

/-- A sequence that ends in a state has run its first part and goes on from there. -/
theorem execAll_append_eq_next {is js : List Instr} {s t : State} (h : execAll (is ++ js) s = .next t) :
    ∃ u, execAll is s = .next u ∧ execAll js u = .next t := by
  induction is generalizing s with
  | nil => exact ⟨s, rfl, h⟩
  | cons i is ih =>
    obtain ⟨u, hu⟩ := exec_next i s
    rw [List.cons_append, execAll_cons_of_next _ hu] at h
    rw [execAll_cons_of_next _ hu]
    exact ih h

theorem execAll_singleton (i : Instr) (s : State) : execAll [i] s = exec i s := by
  obtain ⟨t, ht⟩ := exec_next i s
  rw [execAll_cons_of_next _ ht, execAll, ht]

/-- The pushes of a list of chunks are those of all but the last, then the last. -/
theorem execAll_syncPush_concat {chunks : List Bytes} {last : Bytes} {s t : State}
    (h : execAll ((chunks ++ [last]).map .syncPush) s = .next t) :
    ∃ u, execAll (chunks.map .syncPush) s = .next u ∧ exec (.syncPush last) u = .next t := by
  rw [List.map_append] at h
  obtain ⟨u, hchunks, hlast⟩ := execAll_append_eq_next h
  exact ⟨u, hchunks, execAll_singleton _ u ▸ hlast⟩

/-- However a stream is split, pushing it from reset with no push raising leaves the synchronizer following it (R207). -/
theorem follows_of_execAll {c : Config} {chunks : List Bytes} {t : State}
    (h : execAll (chunks.map .syncPush) (State.resetOf c) = .next t) (hok : AllOk t) : Follows t chunks.flatten := by
  induction chunks using List.reverseRecOn generalizing t with
  | nil =>
    cases h
    exact Follows.resetOf c
  | append_singleton chunks last ih =>
    obtain ⟨u, hchunks, hlast⟩ := execAll_syncPush_concat h
    rw [List.flatten_append, List.flatten_singleton]
    exact (ih hchunks (exec_syncPush_of_allOk hlast hok).1).push hlast hok

end Sys2Proof.Machine
end

section
/-! The statements of 46_stream_synchronizer.md. -/
namespace Sys2Proof.Proofs

open Sys2Proof.Machine

/-- Settles O49: the state follows the stream (`Follows`), by induction on the chunks from the last; in INITIALIZED the three
cases are those of the push and of STEP_I. -/
theorem resynchronizationLaw : Obligations.ResynchronizationLaw := by
  refine ⟨fun c chunks t _ _ hrun hok => ⟨(follows_of_execAll hrun hok).initialized_iff, ?completes⟩,
    fun s t chunk hs hexec => ?initialized⟩
  case completes =>
    rintro earlier last rfl hnot hfound
    obtain ⟨u, hearlier, hlast⟩ := execAll_syncPush_concat hrun
    rw [List.flatten_append, List.flatten_singleton] at hfound ⊢
    have hu : Follows u earlier.flatten := follows_of_execAll hearlier (exec_syncPush_of_allOk hlast hok).1
    exact (hu.completes hnot hfound hlast hok).2
  case initialized =>
    obtain ⟨status, more, hstatus, rfl⟩ | ⟨r, hstep, rfl⟩ := exec_syncPush_cases hexec
    · exact ⟨status, more, rfl, .inl ⟨hstatus, rfl⟩⟩
    · rw [hs, syncStep] at hstep
      subst hstep
      refine ⟨0x00#8, _, rfl, .inr ?_⟩
      obtain hheld | ⟨before, c, after, heq, hbefore, hpair⟩ := stepI_cases (s.syncBuf ++ chunk)
      · rw [hheld]
        exact .inl ⟨rfl, rfl, rfl⟩
      · rw [hpair]
        exact .inr ⟨rfl, before, c, rfl, heq, hbefore⟩

/-- Settles O44: the step is decided by the first init marker, and by the partial marker at the end when there is none. -/
theorem pushInUninitialized : Obligations.PushInUninitialized := by
  intro s chunk hs hstate hcap
  refine ⟨fun before after hfirst hfits => ?found, fun kept hno hkept => ?kept⟩
  case found => exact exec_syncPush_of_le hs hstate (stepU_of_firstOccurrence hfirst) hfits
  case kept =>
    have hlength : kept.length ≤ 2 := by
      obtain ⟨rfl, -⟩ | ⟨rfl, -⟩ | ⟨rfl, -⟩ := hkept <;> decide
    have hstep := stepU_of_noOccurrence hno
    rw [partialSuffix_initMarker hkept] at hstep
    exact exec_syncPush_writes_syncBuf hs hstate hstep (hlength.trans hcap)

/-- Settles O45: the step is decided by whether a byte follows the first 0x5A, and the answer by the length it leaves. -/
theorem pushInInitialized : Obligations.PushInInitialized := by
  intro s chunk hs hstate
  refine ⟨fun before after c heq hbefore => ?pair, fun hno => ?held⟩
  case pair =>
    have hstep := stepI_of_pair heq hbefore
    exact ⟨exec_syncPush_writes_syncBuf hs hstate hstep, exec_syncPush_of_lt hs hstate hstep⟩
  case held =>
    have hstep := stepI_of_no_pair hno
    exact ⟨exec_syncPush_writes_syncBuf hs hstate hstep, exec_syncPush_of_lt hs hstate hstep⟩

/-- Settles O48: no instruction writes SYNC_STATE but a push, which keeps INITIALIZED, and a step serves a packet or writes
no SYNC_STATE unless it is a reset. -/
theorem initializedIsKeptUntilReset : Obligations.InitializedIsKeptUntilReset := by
  refine fun s t hs => ⟨fun i => exec_keeps_initialized hs, fun hstep hreset => ?_⟩
  by_cases hc : configWf s.config = true
  · obtain ⟨-, h⟩ | ⟨turns, hturns, -⟩ | ⟨a, turns, -, -, h⟩ | ⟨a, turns, p, rest, -, -, h⟩ := step_cases s hc
    · cases h.symm.trans hstep
      exact hs
    · exact absurd hturns (hreset turns)
    · cases h.symm.trans hstep
      exact hs
    · exact serve_keeps_initialized ((State.accept_syncState s a rest turns).trans hs) (h ▸ hstep)
  · cases (step_of_not_configWf hc).symm.trans hstep

/-- Settles O46: the body of SYNC_STATUS is an answer in every state. -/
theorem syncStatusReadsSynchronizer : Obligations.SyncStatusReadsSynchronizer := by
  have hanswer {s : State} (hs : s.cfgStatus = .ready) : exec .syncStatus s = .next
      (s.answer (0x00#8 :: syncStateByte s.syncState :: (be16 s.syncBuf.length ++ s.syncBuf))) := by
    rw [exec_syncStatus]
    exact operate_of_ok hs
  refine fun c s => ⟨rfl, fun hs => ⟨fun hstate => ?_, fun hstate => ?_⟩⟩ <;>
    rw [hanswer hs, hstate] <;> rfl

end Sys2Proof.Proofs
end

section
/-! The configuration fault (60_exceptions.md R226): what every instruction, every packet and every step does in it. -/
namespace Sys2Proof.Machine

/-- In the configuration fault every instruction answers the fault (R226). -/
theorem exec_of_fault {s : State} {id : Byte} (i : Instr) (hs : s.cfgStatus = .configFault id) :
    exec i s = .next (s.answer [0x04#8, id]) := by
  obtain ⟨body, hbody⟩ := exec_eq_operate i s
  rw [hbody, operate_of_fault hs]

/-- In the configuration fault every packet is answered the fault before it is decoded (R226, R230). -/
theorem serve_of_fault {s : State} {id : Byte} (p : Packet) (hs : s.cfgStatus = .configFault id) :
    serve p s = .next (s.answer [0x04#8, id]) := by
  rw [serve, hs]
  rfl

/-- The step that takes an agent's packet serves it (R64, R65). -/
theorem step_of_agent {s : State} {a : Agent} {p : Packet} {rest : List Packet} {turns : List Turn}
    (hc : configWf s.config = true) (hturns : s.turns = .agent a :: turns) (hwaiting : s.waiting a = p :: rest) :
    step s = serve p (s.accept a rest turns) := by
  simp only [step, if_pos hc, hturns, hwaiting]

/-- The step that takes an agent's packet in the configuration fault answers the fault to that agent (R226). -/
theorem step_of_fault {s : State} {id : Byte} {a : Agent} {p : Packet} {rest : List Packet} {turns : List Turn}
    (hs : s.cfgStatus = .configFault id) (hc : configWf s.config = true) (hturns : s.turns = .agent a :: turns)
    (hwaiting : s.waiting a = p :: rest) : step s = .next ((s.accept a rest turns).answer [0x04#8, id]) := by
  rw [step_of_agent hc hturns hwaiting]
  exact serve_of_fault p ((State.accept_cfgStatus s a rest turns).trans hs)

/-- A step from the configuration fault stays in it: CHECK_CAT finds the same duplicate again at a reset (R226, R252). -/
theorem step_keeps_fault {s t : State} {id : Byte} (hinv : Inv s) (hs : s.cfgStatus = .configFault id)
    (h : step s = .next t) : t.cfgStatus = .configFault id := by
  obtain ⟨-, hstep⟩ | ⟨turns, -, hstep⟩ | ⟨a, turns, -, -, hstep⟩ | ⟨a, turns, p, rest, hturns, hwaiting, -⟩ :=
    step_cases s hinv.config
  · cases hstep.symm.trans h
    exact hs
  · cases hstep.symm.trans h
    exact hinv.status.symm.trans hs
  · cases hstep.symm.trans h
    exact hs
  · cases (step_of_fault hs hinv.config hturns hwaiting).symm.trans h
    exact (State.accept_cfgStatus s a rest turns).trans hs

end Sys2Proof.Machine
end

section
/-! No operation reads the response log, and an error writes nothing else (60_exceptions.md R222). -/
namespace Sys2Proof.Machine

/-- The state with another response log. -/
def State.withLog (s : State) (log : List Answer) : State := { s with responses := log }

/-- Run in `s` under any response log, `run` appends one and the same response to that log and leaves one and the same rest of
the state; the status is at most 7, and with an error status the rest is as it was. -/
def AnswersBlindly (run : State → Host.Outcome State Fault Refusal) (s : State) : Prop :=
  ∃ (u : State) (status : Byte) (more : Bytes), status.toNat ≤ 7 ∧ (status ≠ 0x00#8 → u = s) ∧
    ∀ log, run (s.withLog log) = .next (u.withLog (log ++ [⟨s.serving, status :: more⟩]))

/-- An error response under any log. -/
theorem AnswersBlindly.of_error {run : State → Host.Outcome State Fault Refusal} {s : State} (r : OpError)
    (hrun : ∀ log, run (s.withLog log) = .next ((s.withLog log).answer (errorResponse r))) : AnswersBlindly run s :=
  ⟨s, errorStatus r, errorInfo r, (errorStatus_range r).2, fun _ => rfl, hrun⟩

/-- In `s` the body of an operation gives the same result under any log: it neither reads nor writes the log, and it leaves the
agent being served. -/
structure LogBlind (body : State → Except OpError (State × Bytes)) (s : State) : Prop where
  withLog : ∀ log, body (s.withLog log) = (body s).map fun result => (result.1.withLog log, result.2)
  serving : ∀ u payload, body s = .ok (u, payload) → u.serving = s.serving

/-- An operation with such a body answers without reading the log: the fault first, then the body's answer or error (R18). -/
theorem AnswersBlindly.of_operate {run : State → Host.Outcome State Fault Refusal}
    {body : State → Except OpError (State × Bytes)} {s : State} (hrun : ∀ t, run t = operate t (body t))
    (hbody : LogBlind body s) : AnswersBlindly run s := by
  have hlog (log : List Answer) := hbody.withLog log ▸ hrun (s.withLog log)
  cases hs : s.cfgStatus with
  | configFault id =>
    exact .of_error (.duplicateRegisterMapping id) fun log => (hlog log).trans (operate_of_fault (s := s.withLog log) hs _)
  | ready =>
    cases hout : body s with
    | error r =>
      rw [hout] at hlog
      exact .of_error r fun log => (hlog log).trans (operate_of_error hs)
    | ok result =>
      obtain ⟨u, payload⟩ := result
      rw [hout] at hlog
      refine ⟨u, 0x00#8, payload, by decide, fun hne => absurd rfl hne, fun log => ?_⟩
      rw [← hbody.serving u payload hout]
      exact (hlog log).trans (operate_of_ok hs)

/-- A body that raises one error. -/
theorem LogBlind.error (r : OpError) (s : State) : LogBlind (fun _ => .error r) s :=
  ⟨fun _ => rfl, fun _ _ h => by cases h⟩

/-- A body that writes and answers, neither of them depending on the log. -/
theorem LogBlind.ok {s : State} (next : State → State) (payload : State → Bytes) (hserving : (next s).serving = s.serving)
    (hnext : ∀ log, next (s.withLog log) = (next s).withLog log) (hpayload : ∀ log, payload (s.withLog log) = payload s) :
    LogBlind (fun t => .ok (next t, payload t)) s where
  withLog log := congrArg Except.ok (Prod.ext (hnext log) (hpayload log))
  serving _ _ h := by
    cases h
    exact hserving

/-- A body that answers and writes nothing. -/
theorem LogBlind.read {s : State} (payload : State → Bytes) (hpayload : ∀ log, payload (s.withLog log) = payload s) :
    LogBlind (fun t => .ok (t, payload t)) s :=
  .ok id payload rfl (fun _ => rfl) hpayload

/-- A body that answers or raises, and writes nothing. -/
theorem LogBlind.payload {s : State} (out : State → Except OpError Bytes) (hout : ∀ log, out (s.withLog log) = out s) :
    LogBlind (fun t => (out t).map (Prod.mk t)) s := by
  refine ⟨fun log => ?_, fun u payload h => ?_⟩
  · rw [hout log]
    cases out s <;> rfl
  · cases hs : out s with
    | ok bytes =>
      rw [hs] at h
      cases h
      rfl
    | error r =>
      rw [hs] at h
      cases h

/-- A body that branches on a test the log has no part in. -/
theorem LogBlind.ite {s : State} {test : State → Prop} [DecidablePred test] {yes no : State → Except OpError (State × Bytes)}
    (htest : ∀ log, test (s.withLog log) ↔ test s) (hyes : LogBlind yes s) (hno : LogBlind no s) :
    LogBlind (fun t => if test t then yes t else no t) s := by
  by_cases h : test s
  · refine ⟨fun log => ?_, ?_⟩
    · rw [if_pos h, if_pos ((htest log).mpr h)]
      exact hyes.withLog log
    · rw [if_pos h]
      exact hyes.serving
  · refine ⟨fun log => ?_, ?_⟩
    · rw [if_neg h, if_neg (mt (htest log).mp h)]
      exact hno.withLog log
    · rw [if_neg h]
      exact hno.serving

/-- The body of a push. -/
theorem LogBlind.pushBody (chunk : Bytes) (s : State) : LogBlind (fun t => pushBody t chunk) s :=
  .ite (fun _ => .rfl) (.error .syncBufferOverflow s) (.ok _ _ rfl (fun _ => rfl) fun _ => rfl)

theorem ReadsConfigOnly.answersBlindly {i : Instr} (h : ReadsConfigOnly i) (s : State) : AnswersBlindly (exec i) s := by
  obtain ⟨out, hout⟩ := h
  exact .of_operate hout (.payload (fun t => out t.config) fun _ => rfl)

/-- The payload or error of DECODE. -/
def decodePayload (frame : Bytes) (s : State) : Except OpError Bytes :=
  (valuesOf s.config frame (enabledIds s)).map fun out => BitVec.ofNat 8 out.length :: out.flatMap pairBytes

theorem exec_decodeFrame_eq_decodePayload (frame : Bytes) (s : State) :
    exec (.decodeFrame frame) s = operate s ((decodePayload frame s).map (Prod.mk s)) := by
  rw [exec_decodeFrame, decodePayload]
  cases valuesOf s.config frame (enabledIds s) <;> rfl

/-- LOOKUP_ID reads the catalog alone (R116). -/
theorem ReadsConfigOnly.lookupId (id : Byte) : ReadsConfigOnly (.lookupId id) :=
  ⟨fun c => (entryAt c id).elim (.error (.unknownParameterIdentifier id)) fun e => .ok (desc e), fun s => by
    rw [exec_lookupId]
    beta_reduce
    cases entryAt s.config id <;> rfl⟩

/-- Every instruction answers without reading the log, and an error writes nothing (R18, R222). -/
theorem exec_answersBlindly (i : Instr) (s : State) : AnswersBlindly (exec i) s := by
  have hwire (h : i.isWire = true) : AnswersBlindly (exec i) s := .of_operate (fun t => exec_wire i t h) (.pushBody (encode i) s)
  cases i with
  | enable id v =>
    exact .of_operate (exec_enable id v) (.ite (fun _ => .rfl) (.ok _ _ rfl (fun _ => rfl) fun _ => rfl) (.error _ s))
  | enumAll => exact .of_operate exec_enumAll (.read _ fun _ => rfl)
  | enumEnabled => exact .of_operate exec_enumEnabled (.read _ fun _ => rfl)
  | countEnabled => exact .of_operate exec_countEnabled (.read _ fun _ => rfl)
  | lookupId id => exact (ReadsConfigOnly.lookupId id).answersBlindly s
  | lookupReg b => exact .of_operate (exec_lookupReg b) (.read _ fun _ => rfl)
  | extract id frame => exact (ReadsConfigOnly.extract id frame).answersBlindly s
  | value id frame => exact (ReadsConfigOnly.value id frame).answersBlindly s
  | scan needle buffer => exact .of_operate (exec_scan needle buffer) (.read _ fun _ => rfl)
  | buildCmd ids => exact (ReadsConfigOnly.buildCmd ids).answersBlindly s
  | parseCmd bytes => exact (ReadsConfigOnly.parseCmd bytes).answersBlindly s
  | decodeFrame frame => exact .of_operate (exec_decodeFrame_eq_decodePayload frame) (.payload _ fun _ => rfl)
  | syncPush chunk => exact .of_operate (exec_syncPush chunk) (.pushBody chunk s)
  | syncStatus => exact .of_operate exec_syncStatus (.read _ fun _ => rfl)
  | wireMarkerPair r => exact hwire rfl
  | wireStreamStart => exact hwire rfl
  | wireInit => exact hwire rfl
  | wireInitResponse => exact hwire rfl
  | wireStreamStop => exact hwire rfl
  | wireStopAck => exact hwire rfl

/-- A packet that does not decode is answered its error (R227, R228). -/
theorem serve_of_reject {s : State} {p : Packet} {r : Reject} (hs : s.cfgStatus = .ready)
    (hdecode : decode s.config p = .error r) : serve p s = .next (s.answer (errorResponse (rejectError r))) := by
  simp only [serve, hs, hdecode]
  rfl

/-- A packet that decodes is run (R230). -/
theorem serve_of_decode {s : State} {p : Packet} {i : Instr} (hs : s.cfgStatus = .ready)
    (hdecode : decode s.config p = .ok i) : serve p s = exec i s := by
  simp only [serve, hs, hdecode]

/-- Every packet is answered without reading the log, and an error writes nothing (R222, R231). -/
theorem serve_answersBlindly (p : Packet) (s : State) : AnswersBlindly (serve p) s := by
  obtain ⟨id, hs, -⟩ | ⟨hs, r, hdecode, -⟩ | ⟨hs, i, hdecode, -⟩ := serve_cases p s
  · exact .of_error (.duplicateRegisterMapping id) fun log => serve_of_fault p hs
  · exact .of_error (rejectError r) fun log => serve_of_reject hs hdecode
  · obtain ⟨u, status, more, hle, herror, hrun⟩ := exec_answersBlindly i s
    exact ⟨u, status, more, hle, herror, fun log => (serve_of_decode (s := s.withLog log) hs hdecode).trans (hrun log)⟩

/-- What answers without reading the log leaves nothing behind: after an error the next packet is served in the same state
under a longer log. -/
theorem AnswersBlindly.leavesNothingBehind {run : State → Host.Outcome State Fault Refusal} {s t : State}
    (hblind : AnswersBlindly run s) (h : run s = .next t) : LeavesNothingBehind s t := by
  obtain ⟨u, status, more, hle, herror, hrun⟩ := hblind
  cases (hrun s.responses).symm.trans h
  refine ⟨status, more, hle, rfl, fun hne => ?_⟩
  rw [herror hne]
  refine ⟨rfl, fun p => ?_⟩
  obtain ⟨v, status', more', -, -, hserve⟩ := serve_answersBlindly p s
  exact ⟨_, _, hserve s.responses, rfl, hserve _⟩

end Sys2Proof.Machine
end

section
/-! The statements of 60_exceptions.md. -/
namespace Sys2Proof.Proofs

open Sys2Proof.Machine

/-- Settles O55: neither an instruction nor a packet reads the log, which is all an error response has changed. -/
theorem errorsLeaveNothingBehind : Obligations.ErrorsLeaveNothingBehind :=
  fun s _ => ⟨fun p => (serve_answersBlindly p s).leavesNothingBehind, fun i => (exec_answersBlindly i s).leavesNothingBehind⟩

/-- Settles O15: the fault is answered before anything is read, and no step but a reset writes CFG_STATUS. -/
theorem configurationFaultAnswersEverything : Obligations.ConfigurationFaultAnswersEverything :=
  fun _ _ hs => ⟨fun i => exec_of_fault i hs,
    fun _ _ _ hc => ⟨step_of_fault (a := .control) hs hc, step_of_fault (a := .worker) hs hc⟩,
    fun hinv _ => step_keeps_fault hinv hs⟩

end Sys2Proof.Proofs
end

section
/-! The step of a reset turn (70_reset_and_hazards.md R250). -/
namespace Sys2Proof.Machine

/-- When the next turn is a reset, the step of a CFD takes it and is the reset event, whatever the agents have waiting. -/
theorem step_of_reset {s : State} {turns : List Turn} (hconfig : configWf s.config = true)
    (hturns : s.turns = .reset :: turns) : step s = .next (State.afterReset { s with turns := turns }) := by
  rw [step, if_pos hconfig, hturns]

end Sys2Proof.Machine
end

section
/-! The statements of 70_reset_and_hazards.md. -/
namespace Sys2Proof.Proofs

open Sys2Proof.Machine

/-- Settles O1: the step is the reset event, which writes the four elements of R251 and touches no other field; there is one
bit of EN for each entry because the size of a configuration is its catalog's length. -/
theorem resetSetsEveryElement : Obligations.ResetSetsEveryElement := by
  intro s turns hconfig hturns
  rw [step_of_reset hconfig hturns, State.afterReset, Config.size]

end Sys2Proof.Proofs
end

section
/-! The request decoder and the wire decoder as inverses of the encoder (30_encoding.md R83 to R85, R91, R92). -/
namespace Sys2Proof

open Sys2Proof.Machine

/-- R84: a request is an instruction exactly when its bytes are that instruction's encoding. -/
theorem decodeRequest_eq_ok_iff {c : Config} {bytes : Bytes} {i : Instr} (hc : configWf c = true) :
    decodeRequest c bytes = .ok i ↔ IsRequestOf c bytes i := by
  refine ⟨fun h => ?_, decodeRequest_of_isRequestOf hc⟩
  cases bytes with
  | nil => cases h
  | cons opc rest =>
    by_cases hopc : opc ∈ assignedOpcodes
    · obtain hmalformed | ⟨j, hj, hrequest⟩ := decodeRequest_reads c rest hopc
      · cases hmalformed.symm.trans h
      · cases hj.symm.trans h
        exact hrequest
    · cases (decodeRequest_of_not_assigned c rest hopc).symm.trans h

/-- The bytes of a wire token spell that token (R91, R92). -/
theorem wireToken_encode {i : Instr} (h : i.isWire = true) : wireToken (encode i) = some i := by
  cases i with
  | wireMarkerPair r => rfl
  | wireStreamStart => rfl
  | wireInit => rfl
  | wireInitResponse => rfl
  | wireStreamStop => rfl
  | wireStopAck => rfl
  | _ => cases h

/-- R85: a request is an illegal operation exactly when its opcode is not assigned. -/
theorem decodeRequest_eq_illegal_iff (c : Config) (opc : Byte) (rest : Bytes) :
    decodeRequest c (opc :: rest) = .error (.illegalOperation opc) ↔ opc ∉ assignedOpcodes := by
  refine ⟨fun h hopc => ?_, decodeRequest_of_not_assigned c rest⟩
  obtain hmalformed | ⟨i, hi, -⟩ := decodeRequest_reads c rest hopc
  · cases hmalformed.symm.trans h
  · cases hi.symm.trans h

/-- The opcodes that are not assigned, as R85 lists them. -/
theorem not_mem_assignedOpcodes_iff (opc : Byte) : opc ∉ assignedOpcodes ↔
    opc = 0x00#8 ∨ (0x07#8 ≤ opc ∧ opc ≤ 0x0F#8) ∨ (0x12#8 ≤ opc ∧ opc ≤ 0x1F#8) ∨ (0x21#8 ≤ opc ∧ opc ≤ 0x2F#8) ∨
      (0x32#8 ≤ opc ∧ opc ≤ 0x3F#8) ∨ (0x41#8 ≤ opc ∧ opc ≤ 0x4F#8) ∨ 0x52#8 ≤ opc := by
  simp only [assignedOpcodes, List.mem_cons, List.not_mem_nil, or_false, BitVec.le_def, ← BitVec.toNat_inj,
    BitVec.toNat_ofNat]
  omega

end Sys2Proof
end

section
/-! The packet fields read back: BE16, BE64 and the descriptor of a catalog entry (00_scope.md R16, 30_encoding.md R88). -/
namespace Sys2Proof

open Sys2Proof.Machine

/-- A BE16 field is the two base-256 digits of its value (R16). -/
theorem be16_eq_iff {n : Nat} {hi lo : Byte} (hn : n < 65536) : be16 n = [hi, lo] ↔ readBe16 hi lo = n := by
  refine ⟨fun h => ?_, fun h => h ▸ be16_readBe16 hi lo⟩
  cases h
  exact readBe16_be16 n hn

/-- A byte of a BE64 field is a base-256 digit of the pattern. -/
theorem toNat_extractLsb'_eight (v : F64) (k : Nat) : (v.extractLsb' k 8).toNat = v.toNat / 2 ^ k % 256 := by
  rw [BitVec.extractLsb'_toNat, Nat.shiftRight_eq_div_pow]

/-- A BE64 field is the eight base-256 digits of its pattern (R16, R89). -/
theorem be64_eq_iff {v : F64} {a b c d e f g h : Byte} : be64 v = [a, b, c, d, e, f, g, h] ↔
    ((((((a.toNat * 256 + b.toNat) * 256 + c.toNat) * 256 + d.toNat) * 256 + e.toNat) * 256 + f.toNat) * 256
      + g.toNat) * 256 + h.toNat = v.toNat := by
  simp only [be64, List.cons.injEq, and_true, ← BitVec.toNat_inj, toNat_extractLsb'_eight]
  omega

/-- A BE64 field reads back, whatever follows it. -/
theorem readBe64_be64_append (v : F64) (rest : Bytes) : readBe64 (be64 v ++ rest) = some (v, rest) := by
  have hdigits := be64_eq_iff.mp (rfl : be64 v = _)
  simp only [be64, List.cons_append, List.nil_append, readBe64, hdigits, BitVec.ofNat_toNat, BitVec.setWidth_eq]

/-- A counted string of at most 255 bytes reads back, whatever follows it. -/
theorem readCounted_counted_append {s : Bytes} (rest : Bytes) (h : s.length ≤ 255) :
    readCounted (counted s ++ rest) = some (s, rest) := by
  rw [counted, List.cons_append, readCounted, byte_toNat_ofNat (by omega),
    if_pos (by rw [List.length_append]; exact Nat.le_add_right _ _), List.take_left, List.drop_left]

/-- The four configuration bytes of a legal variant read back (R88, R104). -/
theorem exists_variantBytes_eq {v : Variant} (h : variantWf v = true) :
    ∃ kind regA regB bit, variantBytes v = [kind, regA, regB, bit] ∧ readVariant kind regA regB bit = some v := by
  cases v with
  | single reg => exact ⟨_, _, _, _, rfl, rfl⟩
  | dual msb lsb => exact ⟨_, _, _, _, rfl, rfl⟩
  | bit reg bit =>
    have hbit : bit.toNat ≤ 7 := ((variantWf_iff _).mp h).1 reg bit rfl
    exact ⟨_, _, _, _, rfl, by simp [readVariant, hbit]⟩

/-- A descriptor reads back (R88). -/
theorem readDesc_desc {e : Entry} (hvariant : variantWf e.variant = true) (hname : e.name.length ≤ 255)
    (hunit : e.unit.length ≤ 255) : readDesc (desc e) = some e := by
  obtain ⟨kind, regA, regB, bit, hbytes, hread⟩ := exists_variantBytes_eq hvariant
  have hlast : readCounted (counted e.unit) = some (e.unit, []) := by
    simpa only [List.append_nil] using readCounted_counted_append [] hunit
  simp only [desc, hbytes, List.append_assoc, List.cons_append, List.nil_append, readDesc, hread, readBe64_be64_append,
    readCounted_counted_append _ hname, hlast]

end Sys2Proof
end

section
/-! The statements of 00_scope.md, 30_encoding.md and 41_catalog.md about packet fields, decoder and encoder. -/
namespace Sys2Proof.Proofs

open Sys2Proof.Machine

/-- Settles O12: BE16 is the two and BE64 the eight base-256 digits, which determine the value and are determined by it. -/
theorem packetFieldsAreBigEndian : Obligations.PacketFieldsAreBigEndian :=
  ⟨fun _ _ _ hn => be16_eq_iff hn, fun _ _ _ _ _ _ _ _ _ => be64_eq_iff⟩

/-- Settles O6: each field of the descriptor reads back, whatever follows it. -/
theorem descriptorReadsBack : Obligations.DescriptorReadsBack :=
  fun _ => readDesc_desc

/-- Settles O9: an assigned opcode's format reads the encodings of its instructions and nothing else. -/
theorem requestDecodingIsExact : Obligations.RequestDecodingIsExact :=
  fun _ _ _ hc => decodeRequest_eq_ok_iff hc

/-- Settles O8: a request's bytes are read by its opcode's format, and a wire token's bytes spell no other token. -/
theorem decodeOfEncodeIsIdentity : Obligations.DecodeOfEncodeIsIdentity := by
  intro c i hc hwf
  cases hwire : i.isWire with
  | false =>
    rw [Instr.packet, hwire]
    exact decodeRequest_of_isRequestOf hc ⟨hwire, hwf, rfl⟩
  | true =>
    rw [Instr.packet, hwire]
    simp only [if_true, decode, decodeWire, wireToken_encode hwire]

/-- Settles O10: the illegal opcodes are those outside the operation map, which are the ranges of R85. -/
theorem unassignedOpcodesAreIllegal : Obligations.UnassignedOpcodesAreIllegal :=
  fun c opc rest => (decodeRequest_eq_illegal_iff c opc rest).trans (not_mem_assignedOpcodes_iff opc)

/-- Settles O7: the bounds that LEN and NLEN are tested against hold by the two premises; the rest is computed. -/
theorem writtenWordsDecode : Obligations.WrittenWordsDecode := by
  intro c hlist hneedle
  have hformat {opc : Byte} {format : Bytes → Except Reject Instr} (h : OpcodeFormat c opc format) (rest : Bytes) :
      decode c (.request (opc :: rest)) = format rest := h.decodeRequest_eq rest
  have hL (mk : Bytes → Instr) (x y : Byte) : formatL c mk [0x00#8, 0x02#8, x, y] = .ok (mk [x, y]) := by
    simp [formatL, readBe16, hlist]
  have hfits : needleFits c [0xFF#8, 0xFF#8, 0xEF#8] = true := (needleFits_iff c _).mpr ⟨by decide, hneedle⟩
  refine ⟨rfl, rfl, rfl, rfl, ?extract, ?scan, ?parseCmd, ?decodeFrame, rfl, rfl, rfl⟩
  case extract => rw [hformat .extract, formatIL, hL]
  case scan =>
    rw [hformat .scan]
    exact (formatNL_needle .scan (rest := [0x00#8, 0x02#8, 0x12#8, 0xFF#8]) rfl hfits (by decide)).trans (hL _ _ _)
  case parseCmd => rw [hformat .parseCmd, hL]
  case decodeFrame => simp [hformat .decodeFrame, formatL, readBe16]

end Sys2Proof.Proofs
end

section
/-! What an answered request writes at the port, and what it leaves alone (10_state.md R36, 20_memory.md R64, R65). -/
namespace Sys2Proof.Machine

/-- From `s` to `t` one request was answered: one response more, with a status of at most 7 for the agent being served, and
the configuration, CFG_STATUS and the rest of the port as they were. -/
structure Answered (s t : State) : Prop where
  config : t.config = s.config
  cfgStatus : t.cfgStatus = s.cfgStatus
  control : t.control = s.control
  worker : t.worker = s.worker
  turns : t.turns = s.turns
  serving : t.serving = s.serving
  response : ∃ (status : Byte) (more : Bytes), status.toNat ≤ 7 ∧ t.responses = s.responses ++ [⟨s.serving, status :: more⟩]

/-- A blind answer is one response with a status of at most 7. -/
theorem AnswersBlindly.response {run : State → Host.Outcome State Fault Refusal} {s t : State} (h : AnswersBlindly run s)
    (hrun : run s = .next t) : ∃ (status : Byte) (more : Bytes), status.toNat ≤ 7 ∧
      t.responses = s.responses ++ [⟨s.serving, status :: more⟩] := by
  obtain ⟨u, status, more, hle, -, hlog⟩ := h
  cases (hlog s.responses).symm.trans hrun
  exact ⟨status, more, hle, rfl⟩

/-- Every instruction answers (R64). -/
theorem exec_answered {i : Instr} {s t : State} (h : exec i s = .next t) : Answered s t := by
  have hresponse := (exec_answersBlindly i s).response h
  obtain ⟨bytes, hi⟩ | ⟨id, v, -, hi⟩ | ⟨chunk, -, hi⟩ := exec_cases i s
  · cases hi.symm.trans h
    exact ⟨rfl, rfl, rfl, rfl, rfl, rfl, hresponse⟩
  · cases hi.symm.trans h
    exact ⟨rfl, rfl, rfl, rfl, rfl, rfl, hresponse⟩
  · obtain ⟨_, _, -, rfl⟩ | ⟨r, -, rfl⟩ := exec_syncPush_cases (hi ▸ h)
    · exact ⟨rfl, rfl, rfl, rfl, rfl, rfl, hresponse⟩
    · exact ⟨rfl, rfl, rfl, rfl, rfl, rfl, hresponse⟩

/-- Every accepted packet is answered (R80, R230). -/
theorem serve_answered {p : Packet} {s t : State} (h : serve p s = .next t) : Answered s t := by
  have hresponse := (serve_answersBlindly p s).response h
  obtain ⟨id, -, hserve⟩ | ⟨-, r, -, hserve⟩ | ⟨-, i, -, hserve⟩ := serve_cases p s
  · cases hserve.symm.trans h
    exact ⟨rfl, rfl, rfl, rfl, rfl, rfl, hresponse⟩
  · cases hserve.symm.trans h
    exact ⟨rfl, rfl, rfl, rfl, rfl, rfl, hresponse⟩
  · exact exec_answered (hserve ▸ h)

/-- EN is written by ENABLE alone (R36). -/
theorem exec_keeps_en {i : Instr} {s t : State} (hi : ∀ id v, i ≠ .enable id v) (h : exec i s = .next t) : t.en = s.en := by
  obtain ⟨bytes, hexec⟩ | ⟨id, v, heq, -⟩ | ⟨chunk, -, hexec⟩ := exec_cases i s
  · cases hexec.symm.trans h
    rfl
  · exact absurd heq (hi id v)
  · obtain ⟨_, _, -, rfl⟩ | ⟨r, -, rfl⟩ := exec_syncPush_cases (hexec ▸ h)
    · rfl
    · rfl

/-- SYNC_STATE and SYNC_BUF are written by pushes alone (R36). -/
theorem exec_keeps_sync {i : Instr} {s t : State} (hi : ∀ chunk, i ≠ .syncPush chunk) (hwire : i.isWire = false)
    (h : exec i s = .next t) : t.syncState = s.syncState ∧ t.syncBuf = s.syncBuf := by
  obtain ⟨bytes, hexec⟩ | ⟨id, v, -, hexec⟩ | ⟨chunk, heq | heq, -⟩ := exec_cases i s
  · cases hexec.symm.trans h
    exact ⟨rfl, rfl⟩
  · cases hexec.symm.trans h
    exact ⟨rfl, rfl⟩
  · exact absurd heq (hi chunk)
  · exact absurd (hwire.symm.trans heq) Bool.false_ne_true

/-- ENABLE writes no bit of EN but its identifier's (R112). -/
theorem exec_enable_keeps_others {id : Byte} {v : Bool} {s t : State} (h : exec (.enable id v) s = .next t) {k : Nat}
    (hk : k ≠ id.toNat) : t.en[k]? = s.en[k]? := by
  obtain ⟨bytes, hexec⟩ | hexec := exec_enable_cases id v s
  · cases hexec.symm.trans h
    rfl
  · cases hexec.symm.trans h
    exact List.getElem?_set_ne hk.symm

/-- A step that takes an agent's packet answers that agent in the state in which the packet is taken. -/
theorem exists_step_answered {s : State} {a : Agent} {p : Packet} {rest : List Packet} {turns : List Turn}
    (hc : configWf s.config = true) (hturns : s.turns = .agent a :: turns) (hwaiting : s.waiting a = p :: rest) :
    ∃ t, step s = .next t ∧ Answered (s.accept a rest turns) t := by
  obtain ⟨t, ht⟩ := serve_next p (s.accept a rest turns)
  exact ⟨t, (step_of_agent hc hturns hwaiting).trans ht, serve_answered ht⟩

/-- A step writes no configuration (R38). -/
theorem step_keeps_config {s t : State} (h : step s = .next t) : t.config = s.config := by
  by_cases hc : configWf s.config = true
  · obtain ⟨-, hstep⟩ | ⟨turns, -, hstep⟩ | ⟨a, turns, -, -, hstep⟩ | ⟨a, turns, p, rest, -, -, hstep⟩ := step_cases s hc
    · cases hstep.symm.trans h
      rfl
    · cases hstep.symm.trans h
      rfl
    · cases hstep.symm.trans h
      rfl
    · exact (serve_answered (hstep ▸ h)).config.trans (State.accept_config s a rest turns)
  · cases (step_of_not_configWf hc).symm.trans h

/-- A CFD's run goes on for any number of steps (R244 (d), (e)). -/
theorem exists_run_next {s : State} (hc : configWf s.config = true) (k : Nat) :
    ∃ t : State, Host.Core.run core k s = .next t := by
  induction k generalizing s with
  | zero => exact ⟨s, rfl⟩
  | succ k ih =>
    obtain ⟨u, hu⟩ := step_next hc
    obtain ⟨t, ht⟩ := ih (s := u) (step_keeps_config hu ▸ hc)
    refine ⟨t, ?_⟩
    have hstep : core.step s = .next u := hu
    simp only [Host.Core.run, hstep]
    exact ht

end Sys2Proof.Machine
end

section
/-! The parts of the architectural state that two states share (R263). -/
namespace Sys2Proof

open Sys2Proof.Machine

theorem SameCfd.config {s t : State} (h : SameCfd s t) : t.config = s.config := h.1
theorem SameCfd.en {s t : State} (h : SameCfd s t) : t.en = s.en := h.2.1
theorem SameCfd.syncState {s t : State} (h : SameCfd s t) : t.syncState = s.syncState := h.2.2.1
theorem SameCfd.syncBuf {s t : State} (h : SameCfd s t) : t.syncBuf = s.syncBuf := h.2.2.2.1
theorem SameCfd.cfgStatus {s t : State} (h : SameCfd s t) : t.cfgStatus = s.cfgStatus := h.2.2.2.2

end Sys2Proof
end

section
/-! The architectural state alone decides what an instruction writes and answers (60_exceptions.md R236). -/
namespace Sys2Proof.Machine

/-- The two outcomes are next states with the same architectural state, each with one response more than the state it came
from, of the same bytes. -/
def SameAnswer (s t : State) (x y : Host.Outcome State Fault Refusal) : Prop :=
  ∃ (u v : State) (bytes : Bytes), x = .next u ∧ y = .next v ∧ SameCfd u v ∧
    u.responses = s.responses ++ [⟨s.serving, bytes⟩] ∧ v.responses = t.responses ++ [⟨t.serving, bytes⟩]

/-- The bodies of one operation in `s` and in `t` give the same error, or write the same architectural state and answer the
same payload, and leave the agent being served and the response log. -/
inductive SameResult (s t : State) : Except OpError (State × Bytes) → Except OpError (State × Bytes) → Prop where
  | error (r : OpError) : SameResult s t (.error r) (.error r)
  | ok {u v : State} (payload : Bytes) (hcfd : SameCfd u v) (hu : u.serving = s.serving ∧ u.responses = s.responses)
      (hv : v.serving = t.serving ∧ v.responses = t.responses) : SameResult s t (.ok (u, payload)) (.ok (v, payload))

/-- A body that writes nothing and whose payload or error is the same in both states. -/
theorem SameResult.map {s t : State} (h : SameCfd s t) (out : Except OpError Bytes) :
    SameResult s t (out.map (Prod.mk s)) (out.map (Prod.mk t)) := by
  cases out with
  | error r => exact .error r
  | ok payload => exact .ok payload h ⟨rfl, rfl⟩ ⟨rfl, rfl⟩

/-- A body that answers the same payload in both states and writes nothing. -/
theorem SameResult.read {s t : State} (h : SameCfd s t) {payload payload' : Bytes} (heq : payload' = payload) :
    SameResult s t (.ok (s, payload)) (.ok (t, payload')) :=
  heq ▸ .ok payload h ⟨rfl, rfl⟩ ⟨rfl, rfl⟩

theorem SameAnswer.answer {s t u v : State} (hcfd : SameCfd u v) (hu : u.serving = s.serving ∧ u.responses = s.responses)
    (hv : v.serving = t.serving ∧ v.responses = t.responses) (bytes : Bytes) :
    SameAnswer s t (.next (u.answer bytes)) (.next (v.answer bytes)) := by
  obtain ⟨hserving, hresponses⟩ := hu
  obtain ⟨hserving', hresponses'⟩ := hv
  refine ⟨_, _, bytes, rfl, rfl, hcfd, ?_, ?_⟩
  · rw [State.answer_responses, hserving, hresponses]
  · rw [State.answer_responses, hserving', hresponses']

/-- Operations whose bodies give the same result answer the same. -/
theorem SameResult.operate {s t : State} {x y : Except OpError (State × Bytes)} (h : SameCfd s t)
    (hxy : SameResult s t x y) :
    SameAnswer s t (operate s x) (operate t y) := by
  have hstatus := h.cfgStatus
  cases hs : s.cfgStatus with
  | configFault id =>
    rw [operate_of_fault hs, operate_of_fault (hstatus.trans hs)]
    exact .answer h ⟨rfl, rfl⟩ ⟨rfl, rfl⟩ _
  | ready =>
    cases hxy with
    | error r =>
      rw [operate_of_error hs, operate_of_error (hstatus.trans hs)]
      exact .answer h ⟨rfl, rfl⟩ ⟨rfl, rfl⟩ _
    | ok payload hcfd hu hv =>
      rw [operate_of_ok hs, operate_of_ok (hstatus.trans hs)]
      exact .answer hcfd hu hv _

/-- The body of a push reads and writes the architectural state only. -/
theorem SameResult.pushBody {s t : State} (h : SameCfd s t) (chunk : Bytes) :
    SameResult s t (pushBody s chunk) (pushBody t chunk) := by
  simp only [Machine.pushBody, h.config, h.syncState, h.syncBuf]
  split
  · exact .error _
  · exact .ok _ ⟨h.config, h.en, rfl, rfl, h.cfgStatus⟩ ⟨rfl, rfl⟩ ⟨rfl, rfl⟩

/-- ENABLE answers the same and writes the same bit in two states with the same architectural state. -/
theorem exec_enable_same {s t : State} (id : Byte) (v : Bool) (h : SameCfd s t) :
    SameAnswer s t (exec (.enable id v) s) (exec (.enable id v) t) := by
  have hwritten : SameCfd (s.setEn id.toNat v) (t.setEn id.toNat v) :=
    ⟨h.config, congrArg (List.set · id.toNat v) h.en, h.syncState, h.syncBuf, h.cfgStatus⟩
  rw [exec_enable, exec_enable, h.config]
  refine SameResult.operate h ?_
  split
  · exact .ok _ hwritten ⟨rfl, rfl⟩ ⟨rfl, rfl⟩
  · exact .error _

theorem ReadsConfigOnly.same {i : Instr} (hi : ReadsConfigOnly i) {s t : State} (h : SameCfd s t) :
    SameAnswer s t (exec i s) (exec i t) := by
  obtain ⟨out, hout⟩ := hi
  rw [hout, hout, h.config]
  exact (SameResult.map h _).operate h

/-- Every instruction answers the same in two states with the same architectural state. -/
theorem exec_same {s t : State} (i : Instr) (h : SameCfd s t) : SameAnswer s t (exec i s) (exec i t) := by
  have henabled : enabledIds t = enabledIds s := by
    rw [enabledIds_eq_filter_range, enabledIds_eq_filter_range, h.config, h.en]
  have hwire (hi : i.isWire = true) : SameAnswer s t (exec i s) (exec i t) := by
    rw [exec_wire i s hi, exec_wire i t hi]
    exact (SameResult.pushBody h _).operate h
  cases i with
  | enable id v => exact exec_enable_same id v h
  | enumAll => exact (SameResult.read h (by rw [h.config])).operate h
  | enumEnabled => exact (SameResult.read h (by rw [henabled])).operate h
  | countEnabled =>
    rw [exec_countEnabled, exec_countEnabled, List.countP_eq_length_filter, List.countP_eq_length_filter]
    exact (SameResult.read h (by rw [← enabledIds, ← enabledIds, henabled])).operate h
  | lookupId id => exact (ReadsConfigOnly.lookupId id).same h
  | lookupReg b => exact (SameResult.read h (by rw [h.config])).operate h
  | extract id frame => exact (ReadsConfigOnly.extract id frame).same h
  | value id frame => exact (ReadsConfigOnly.value id frame).same h
  | scan needle buffer => exact (SameResult.read h rfl).operate h
  | buildCmd ids => exact (ReadsConfigOnly.buildCmd ids).same h
  | parseCmd bytes => exact (ReadsConfigOnly.parseCmd bytes).same h
  | decodeFrame frame =>
    rw [exec_decodeFrame_eq_decodePayload, exec_decodeFrame_eq_decodePayload, decodePayload, decodePayload,
      h.config, henabled]
    exact (SameResult.map h _).operate h
  | syncPush chunk => exact (SameResult.pushBody h chunk).operate h
  | syncStatus => exact (SameResult.read h (by rw [h.syncState, h.syncBuf])).operate h
  | wireMarkerPair r => exact hwire rfl
  | wireStreamStart => exact hwire rfl
  | wireInit => exact hwire rfl
  | wireInitResponse => exact hwire rfl
  | wireStreamStop => exact hwire rfl
  | wireStopAck => exact hwire rfl

/-- Every packet is answered the same in two states with the same architectural state (R236). -/
theorem serve_same {s t : State} (p : Packet) (h : SameCfd s t) : SameAnswer s t (serve p s) (serve p t) := by
  have hstatus := h.cfgStatus
  obtain ⟨id, hs, -⟩ | ⟨hs, r, hdecode, -⟩ | ⟨hs, i, hdecode, -⟩ := serve_cases p s
  · rw [serve_of_fault p hs, serve_of_fault p (hstatus.trans hs)]
    exact .answer h ⟨rfl, rfl⟩ ⟨rfl, rfl⟩ _
  · rw [serve_of_reject hs hdecode, serve_of_reject (hstatus.trans hs) (h.config.symm ▸ hdecode)]
    exact .answer h ⟨rfl, rfl⟩ ⟨rfl, rfl⟩ _
  · rw [serve_of_decode hs hdecode, serve_of_decode (hstatus.trans hs) (h.config.symm ▸ hdecode)]
    exact exec_same i h

end Sys2Proof.Machine
end

section
/-! What one synchronizer step and one push leave held (46_stream_synchronizer.md R201, R204). -/
namespace Sys2Proof.Machine

/-- A remainder of SCAN_MATCH is no longer than the buffer. -/
theorem scanMatch_length_le {needle : Bytes} (buf : Bytes) (h : needle ≠ []) :
    (scanMatch buf needle).2.length ≤ buf.length := by
  cases hafter : afterFirst needle buf with
  | none =>
    simp only [scanMatch, hafter]
    exact (partialSuffix_partial needle buf h).1.length_le
  | some after =>
    obtain ⟨before, rfl, -⟩ := firstOccurrence_of_afterFirst hafter
    simp only [scanMatch, hafter, List.length_append]
    omega

/-- STEP_U leaves no more bytes than it is given (R201). -/
theorem stepU_buf_length_le (buf : Bytes) : (stepU buf).buf.length ≤ buf.length := by
  have hle : (scanMatch buf Config.initMarker).2.length ≤ buf.length := scanMatch_length_le buf (by decide)
  unfold stepU
  split
  case h_1 hmatch => rwa [hmatch] at hle
  case h_2 hmatch => rwa [hmatch] at hle

/-- What STEP_U holds in UNINITIALIZED is a partial init marker (R201). -/
theorem stepU_buf_mem_of_uninitialized {buf : Bytes} (h : (stepU buf).state = .uninitialized) :
    (stepU buf).buf ∈ [[], [0xFF#8], [0xFF#8, 0xFF#8]] := by
  by_cases hfound : Config.initMarker <:+: buf
  · obtain ⟨before, after, hfirst⟩ := exists_firstOccurrence_of_infix hfound
    rw [stepU_of_firstOccurrence hfirst] at h
    cases h
  · rw [stepU_of_noOccurrence ((noOccurrence_iff_not_infix _ _).mpr hfound)]
    obtain ⟨-, hkept⟩ := partialMatch_initMarker_iff.mp (partialSuffix_partial Config.initMarker buf (by decide))
    obtain heq | heq | heq := hkept <;> simp only [heq] <;> decide

/-- What a synchronizer step holds in UNINITIALIZED is a partial init marker (R201, R206). -/
theorem syncStep_buf_mem_of_uninitialized {st : SyncState} {buf : Bytes} (h : (syncStep st buf).state = .uninitialized) :
    (syncStep st buf).buf ∈ [[], [0xFF#8], [0xFF#8, 0xFF#8]] := by
  cases st with
  | uninitialized => exact stepU_buf_mem_of_uninitialized h
  | initialized => cases (stepI_state buf).symm.trans h

/-- The body of a push answers only when the buffer the step leaves fits, and then writes what the step leaves (R204). -/
theorem pushBody_eq_ok {s u : State} {chunk payload : Bytes} (h : pushBody s chunk = .ok (u, payload)) :
    (syncStep s.syncState (s.syncBuf ++ chunk)).buf.length ≤ s.config.syncBufCap ∧
      u = s.setSync (syncStep s.syncState (s.syncBuf ++ chunk)).state (syncStep s.syncState (s.syncBuf ++ chunk)).buf := by
  simp only [pushBody] at h
  split at h
  case isTrue => cases h
  case isFalse hfits =>
    cases h
    exact ⟨Nat.not_lt.mp hfits, rfl⟩

end Sys2Proof.Machine
end

section
/-! The invariant: reset establishes it, and neither a packet nor a reset breaks it (10_state.md R32 to R35). -/
namespace Sys2Proof

open Sys2Proof.Machine

/-- The invariant speaks of the architectural state only. -/
theorem Inv.of_sameCfd {s t : State} (hs : Inv s) (h : SameCfd s t) : Inv t where
  config := h.config ▸ hs.config
  enLength := by rw [h.en, h.config, hs.enLength]
  status := by rw [h.cfgStatus, h.config, hs.status]
  bufBound := by rw [h.syncBuf, h.config]; exact hs.bufBound
  uninitialized := by rw [h.syncState, h.syncBuf]; exact hs.uninitialized

/-- The invariant holds right after reset (R251, R252). -/
theorem inv_resetOf {c : Config} (hc : configWf c = true) : Inv (State.resetOf c) where
  config := hc
  enLength := List.length_replicate
  status := rfl
  bufBound := Nat.zero_le _
  uninitialized _ := List.mem_cons_self

/-- Accepting a packet leaves the architectural state. -/
theorem sameCfd_accept (s : State) (a : Agent) (rest : List Packet) (turns : List Turn) :
    SameCfd s (s.accept a rest turns) := by
  cases a with
  | control => exact ⟨rfl, rfl, rfl, rfl, rfl⟩
  | worker => exact ⟨rfl, rfl, rfl, rfl, rfl⟩

/-- A push keeps the invariant: SYNC_BUF_CAP is tested before SYNC_BUF is written (R204). -/
theorem exec_syncPush_keeps_inv {s t : State} {chunk : Bytes} (hs : Inv s) (h : exec (.syncPush chunk) s = .next t) :
    Inv t := by
  obtain ⟨id, -, rfl⟩ | ⟨-, u, payload, hbody, rfl⟩ | ⟨-, r, -, rfl⟩ := operate_cases h
  · exact hs.of_sameCfd ⟨rfl, rfl, rfl, rfl, rfl⟩
  · obtain ⟨hfits, rfl⟩ := pushBody_eq_ok hbody
    exact ⟨hs.config, hs.enLength, hs.status, hfits, syncStep_buf_mem_of_uninitialized⟩
  · exact hs.of_sameCfd ⟨rfl, rfl, rfl, rfl, rfl⟩

/-- Every instruction keeps the invariant. -/
theorem exec_keeps_inv {i : Instr} {s t : State} (hs : Inv s) (h : exec i s = .next t) : Inv t := by
  obtain ⟨bytes, hi⟩ | ⟨id, v, -, hi⟩ | ⟨chunk, -, hi⟩ := exec_cases i s
  · cases hi.symm.trans h
    exact hs.of_sameCfd ⟨rfl, rfl, rfl, rfl, rfl⟩
  · cases hi.symm.trans h
    exact ⟨hs.config, (State.setEn_en_length s id.toNat v).trans hs.enLength, hs.status, hs.bufBound, hs.uninitialized⟩
  · exact exec_syncPush_keeps_inv hs (hi ▸ h)

/-- Every accepted packet keeps the invariant. -/
theorem serve_keeps_inv {p : Packet} {s t : State} (hs : Inv s) (h : serve p s = .next t) : Inv t := by
  obtain ⟨id, -, hserve⟩ | ⟨-, r, -, hserve⟩ | ⟨-, i, -, hserve⟩ := serve_cases p s
  · cases hserve.symm.trans h
    exact hs.of_sameCfd ⟨rfl, rfl, rfl, rfl, rfl⟩
  · cases hserve.symm.trans h
    exact hs.of_sameCfd ⟨rfl, rfl, rfl, rfl, rfl⟩
  · exact exec_keeps_inv hs (hserve ▸ h)

/-- Every step keeps the invariant. -/
theorem step_keeps_inv {s t : State} (hs : Inv s) (h : step s = .next t) : Inv t := by
  obtain ⟨-, hstep⟩ | ⟨turns, -, hstep⟩ | ⟨a, turns, -, -, hstep⟩ | ⟨a, turns, p, rest, -, -, hstep⟩ :=
    step_cases s hs.config
  · cases hstep.symm.trans h
    exact hs
  · cases hstep.symm.trans h
    exact (inv_resetOf hs.config).of_sameCfd ⟨rfl, rfl, rfl, rfl, rfl⟩
  · cases hstep.symm.trans h
    exact hs.of_sameCfd ⟨rfl, rfl, rfl, rfl, rfl⟩
  · exact serve_keeps_inv (hs.of_sameCfd (sameCfd_accept s a rest turns)) (hstep ▸ h)

end Sys2Proof
end

section
/-! An instruction run again in the state it left (20_memory.md R69). -/
namespace Sys2Proof.Machine

/-- An instruction that only answers gives the same answer again: it does not read the response it gave. -/
theorem exec_again_of_answer {i : Instr} {s : State} {bytes : Bytes} (h : exec i s = .next (s.answer bytes)) :
    exec i (s.answer bytes) = .next ((s.answer bytes).answer bytes) := by
  obtain ⟨u, status, more, -, -, hlog⟩ := exec_answersBlindly i s
  have hleft : u.withLog (s.responses ++ [⟨s.serving, status :: more⟩]) = s.answer bytes :=
    Host.Outcome.next.inj ((hlog s.responses).symm.trans h)
  have hbytes : status :: more = bytes := by simpa [State.withLog] using congrArg State.responses hleft
  have hrest (log : List Answer) : u.withLog log = s.withLog log :=
    calc u.withLog log = (u.withLog (s.responses ++ [⟨s.serving, status :: more⟩])).withLog log := rfl
      _ = s.withLog log := by rw [hleft]; rfl
  rw [hbytes] at hlog
  exact (hlog (s.answer bytes).responses).trans (congrArg _ (hrest _))

/-- Run again in `t`, the state it left from `s`, the instruction answers the same and changes nothing else (R69). -/
def Repeats (i : Instr) (s t : State) : Prop :=
  ∃ bytes : Bytes, t.responses = s.responses ++ [⟨s.serving, bytes⟩] ∧ exec i t = .next (t.answer bytes)

theorem Repeats.of_answer {i : Instr} {s t : State} {bytes : Bytes} (hanswer : exec i s = .next (s.answer bytes))
    (h : exec i s = .next t) : Repeats i s t := by
  cases hanswer.symm.trans h
  exact ⟨bytes, rfl, exec_again_of_answer hanswer⟩

/-- ENABLE run again writes what it wrote (R112). -/
theorem Repeats.enable {id : Byte} {v : Bool} {s t : State} (h : exec (.enable id v) s = .next t) :
    Repeats (.enable id v) s t := by
  cases hs : s.cfgStatus with
  | configFault fault => exact .of_answer (exec_of_fault _ hs) h
  | ready =>
    obtain hid | hid := Nat.lt_or_ge id.toNat s.config.cat.length
    · cases (exec_enable_of_lt v hs hid).symm.trans h
      have hwritten : ((s.setEn id.toNat v).answer [0x00#8]).setEn id.toNat v = (s.setEn id.toNat v).answer [0x00#8] :=
        congrArg (fun t : State => t.answer [0x00#8]) (State.setEn_setEn s id.toNat v)
      have hagain := exec_enable_of_lt (s := (s.setEn id.toNat v).answer [0x00#8]) v hs hid
      rw [hwritten] at hagain
      exact ⟨_, rfl, hagain⟩
    · exact .of_answer (exec_enable_of_le v hs hid) h

/-- Every operation but SYNC_PUSH can be repeated (R69). -/
theorem repeats_of_exec {i : Instr} {s t : State} (hwire : i.isWire = false) (hpush : ∀ chunk, i ≠ .syncPush chunk)
    (h : exec i s = .next t) : Repeats i s t := by
  obtain ⟨bytes, hexec⟩ | ⟨id, v, rfl, -⟩ | ⟨chunk, heq | heq, -⟩ := exec_cases i s
  · exact .of_answer hexec h
  · exact .enable h
  · exact absurd heq (hpush chunk)
  · exact absurd (hwire.symm.trans heq) Bool.false_ne_true

end Sys2Proof.Machine
end

section
/-! The statements about the command port and the whole machine (10_state.md, 20_memory.md, 60_exceptions.md). -/
namespace Sys2Proof.Proofs

open Sys2Proof.Machine

/-- Settles O58: accepting a packet leaves the architectural state, only ENABLE and a push write some of it, keeping the
length of EN and the bounds of SYNC_BUF, and a reset makes the state that the invariant holds of anyway. -/
theorem stepKeepsTheInvariant : Obligations.StepKeepsTheInvariant :=
  fun _ _ => step_keeps_inv

/-- Settles O57, by the reset value of each element. -/
theorem resetEstablishesTheInvariant : Obligations.ResetEstablishesTheInvariant :=
  fun _ => inv_resetOf

/-- Settles O13: the step serves the packet, and a packet that decodes is run. -/
theorem stepRunsDecodedInstruction : Obligations.StepRunsDecodedInstruction :=
  fun _ _ _ _ _ hc hs hdecode =>
    ⟨fun hturns hcontrol => (step_of_agent (a := .control) hc hturns hcontrol).trans (serve_of_decode hs hdecode),
      fun hturns hworker => (step_of_agent (a := .worker) hc hturns hworker).trans (serve_of_decode hs hdecode)⟩

/-- Settles O14: the step serves the packet, and a packet that does not decode is answered its error. -/
theorem rejectedPacketsAreAnswered : Obligations.RejectedPacketsAreAnswered := by
  intro s p rest turns answer hc hs hreject
  obtain ⟨r, hdecode, rfl⟩ : ∃ r, decode s.config p = .error r ∧ answer = errorResponse (rejectError r) := by
    obtain ⟨opc, hdecode, rfl⟩ | ⟨hdecode, rfl⟩ := hreject
    · exact ⟨_, hdecode, rfl⟩
    · exact ⟨_, hdecode, rfl⟩
  exact ⟨fun hturns hcontrol => (step_of_agent (a := .control) hc hturns hcontrol).trans (serve_of_reject hs hdecode),
    fun hturns hworker => (step_of_agent (a := .worker) hc hturns hworker).trans (serve_of_reject hs hdecode)⟩

/-- Settles O16: the packet is served in the state in which it is taken, and whatever becomes of it is one answer. -/
theorem everyRequestIsAnsweredOnce : Obligations.EveryRequestIsAnsweredOnce := by
  intro s p rest turns hc
  refine ⟨fun hturns hcontrol => ?control, fun hturns hworker => ?worker⟩
  case control =>
    obtain ⟨t, hstep, ht⟩ := exists_step_answered (a := .control) hc hturns hcontrol
    obtain ⟨status, more, hle, hresponses⟩ := ht.response
    exact ⟨t, status, more, hstep, ht.control, ht.worker, ht.turns, hresponses, hle, ht.config, ht.cfgStatus⟩
  case worker =>
    obtain ⟨t, hstep, ht⟩ := exists_step_answered (a := .worker) hc hturns hworker
    obtain ⟨status, more, hle, hresponses⟩ := ht.response
    exact ⟨t, status, more, hstep, ht.worker, ht.control, ht.turns, hresponses, hle, ht.config, ht.cfgStatus⟩

/-- Settles O17: the two states in which the packet is taken have the same architectural state, which alone decides the
answer. -/
theorem agentMakesNoDifference : Obligations.AgentMakesNoDifference := by
  intro s p hc
  have hcontrol : step { s with turns := [.agent .control], control := [p] } =
      serve p { s with turns := [], control := [], serving := .control } :=
    step_of_agent (s := { s with turns := [.agent .control], control := [p] }) (a := .control) hc rfl rfl
  have hworker : step { s with turns := [.agent .worker], worker := [p] } =
      serve p { s with turns := [], worker := [], serving := .worker } :=
    step_of_agent (s := { s with turns := [.agent .worker], worker := [p] }) (a := .worker) hc rfl rfl
  obtain ⟨t, u, bytes, ht, hu, hcfd, hresponses, hresponses'⟩ :=
    serve_same p (s := { s with turns := [], control := [], serving := .control })
      (t := { s with turns := [], worker := [], serving := .worker }) ⟨rfl, rfl, rfl, rfl, rfl⟩
  exact ⟨t, u, bytes, hcontrol.trans ht, hworker.trans hu, hcfd, hresponses, hresponses'⟩

/-- Settles O18, by induction on the number of steps: each answers a next state and writes no configuration. -/
theorem everyRunOfACfdGoesOn : Obligations.EveryRunOfACfdGoesOn :=
  fun _ hc k => exists_run_next hc k

/-- Settles O54: an instruction only answers, or writes its bit of EN, or is a push. -/
theorem eachElementHasOneWriter : Obligations.EachElementHasOneWriter := by
  intro i s
  obtain ⟨t, ht⟩ := exec_next i s
  have hanswered := exec_answered ht
  obtain ⟨status, more, -, hresponses⟩ := hanswered.response
  refine ⟨t, ht, hanswered.config, hanswered.cfgStatus, hanswered.control, hanswered.worker, hanswered.turns,
    hanswered.serving, ⟨status :: more, List.cons_ne_nil _ _, hresponses⟩, fun hi => exec_keeps_en hi ht,
    fun hi hwire => exec_keeps_sync hi hwire ht, ?_⟩
  rintro id v rfl k hk
  exact exec_enable_keeps_others ht hk

/-- Settles O56: an operation that only answers does not read what it answered, and ENABLE writes its bit again. -/
theorem readsAndEnableAreIdempotent : Obligations.ReadsAndEnableAreIdempotent :=
  fun _ _ _ => repeats_of_exec

end Sys2Proof.Proofs
end

section
/-! Pushes of wire tokens and pushes of nothing (30_encoding.md R91, R92; 46_stream_synchronizer.md R204, R208). -/
namespace Sys2Proof.Machine

/-- A wire token is the push of its bytes (notes/assumptions/3.md). -/
theorem exec_wire_eq_syncPush {i : Instr} (s : State) (h : i.isWire = true) :
    exec i s = exec (.syncPush (encode i)) s :=
  exec_wire i s h

/-- One byte behind held bytes without a 0x5A makes no pair (R202). -/
theorem stepI_append_singleton {held : Bytes} (x : Byte) (h : Config.marker ∉ held) :
    stepI (held ++ [x]) = ⟨.initialized, held ++ [x], none⟩ := by
  refine stepI_of_no_pair fun before after c heq => h ?_
  have hheld : held = before ++ Config.marker :: (c :: after).dropLast := by
    simpa [List.dropLast_append_of_ne_nil] using congrArg List.dropLast heq
  rw [hheld]
  exact List.mem_append_right _ List.mem_cons_self

/-- A single-byte token in UNINITIALIZED: neither it nor the partial marker before it is kept (R201). -/
theorem stepU_append_token : ∀ x ∈ [Config.streamStart, Config.initResponse, Config.streamStop, Config.stopAck],
    ∀ held ∈ [[], [0xFF#8], [0xFF#8, 0xFF#8]], stepU (held ++ [x]) = ⟨.uninitialized, [], none⟩ := by
  decide

/-- The bytes of held pairs. -/
def pairsOf (commands : Bytes) : Bytes := commands.flatMap fun c => [Config.marker, c]

theorem pairsOf_cons (c : Byte) (commands : Bytes) : pairsOf (c :: commands) = Config.marker :: c :: pairsOf commands := rfl

/-- An empty push dispatches the first held pair (R208). -/
theorem exec_syncPush_nil_of_pair {s : State} {c : Byte} {commands : Bytes} (hs : s.cfgStatus = .ready)
    (hstate : s.syncState = .initialized) (hbuf : s.syncBuf = pairsOf (c :: commands))
    (hfits : (pairsOf commands).length ≤ s.config.syncBufCap) : exec (.syncPush []) s =
      .next (State.answer { s with syncBuf := pairsOf commands } [0x00#8, 0x01#8, 0x01#8, c]) := by
  have hpair : s.syncBuf ++ [] = [] ++ Config.marker :: c :: pairsOf commands := by
    rw [hbuf, List.append_nil, pairsOf_cons, List.nil_append]
  exact exec_syncPush_writes_syncBuf hs hstate (stepI_of_pair hpair List.not_mem_nil) hfits

/-- Empty pushes dispatch the held pairs one for one, in order, and the push after them nothing (R208, R256). -/
theorem execAll_drains_pairs {s : State} {commands : Bytes} (hs : s.cfgStatus = .ready) (hstate : s.syncState = .initialized)
    (hbuf : s.syncBuf = pairsOf commands) (hfits : s.syncBuf.length ≤ s.config.syncBufCap) :
    execAll (List.replicate (commands.length + 1) (.syncPush [])) s = .next { s with
      syncBuf := []
      responses := s.responses ++ commands.map (fun c => (⟨s.serving, [0x00#8, 0x01#8, 0x01#8, c]⟩ : Answer))
        ++ [⟨s.serving, [0x00#8, 0x01#8, 0x00#8, 0x00#8]⟩] } := by
  induction commands generalizing s with
  | nil =>
    have hempty : stepI (s.syncBuf ++ []) = ⟨.initialized, [], none⟩ := by rw [hbuf]; rfl
    rw [List.map_nil, List.append_nil]
    exact (execAll_singleton _ s).trans (exec_syncPush_writes_syncBuf hs hstate hempty (Nat.zero_le _))
  | cons c commands ih =>
    have hrest : (pairsOf commands).length ≤ s.config.syncBufCap := by
      rw [hbuf, pairsOf_cons, List.length_cons, List.length_cons] at hfits
      omega
    have hfirst := exec_syncPush_nil_of_pair hs hstate hbuf hrest
    have hdrain := ih (s := State.answer { s with syncBuf := pairsOf commands } [0x00#8, 0x01#8, 0x01#8, c]) hs hstate rfl
      hrest
    rw [List.length_cons, List.replicate_succ, execAll_cons_of_next _ hfirst, hdrain]
    simp [State.answer]

end Sys2Proof.Machine
end

section
/-! VALUE, by the raw value of its entry (42_parameter_model.md R128). -/
namespace Sys2Proof.Machine

/-- VALUE answers the scaled raw value its entry has in the frame (R128). -/
theorem exec_value_of_unscaled {s : State} {id : Byte} {frame : Bytes} {e : Entry} {raw : Raw} (hs : s.cfgStatus = .ready)
    (he : s.config.cat[id.toNat]? = some e) (hraw : unscaled id e frame = .ok raw) :
    exec (.value id frame) s = .next (s.answer (0x00#8 :: be64 (scaleValue e raw.toNat))) := by
  rw [exec_value, rawOf_of_unscaled he hraw]
  exact operate_of_ok hs

end Sys2Proof.Machine
end

section
/-! The statements about catalog values, the command codec's tokens and the synchronizer. -/
namespace Sys2Proof.Proofs

open Sys2Proof.Machine

/-- Settles O5: rounding is monotone, so a smaller raw value scales to a finite value where the largest does. -/
theorem endpointCheckCoversEveryRawValue : Obligations.EndpointCheckCoversEveryRawValue := by
  intro e h
  obtain ⟨-, hscale, hoffset, -⟩ := (entryWf_iff e).mp h
  exact ⟨hscale, hoffset, fun raw hraw => f64IsFinite_scaleValue_of_entryWf h hraw⟩

/-- Settles O27: the raw value of each variant, scaled. -/
theorem valueAnswersScaledValue : Obligations.ValueAnswersScaledValue := by
  intro s id frame e hs he
  refine ⟨fun r x hv hx => ?single, fun m l hi lo hv hhi hlo => ?dual, fun r b x hv hx => ?bit⟩
  case single =>
    have hraw : (x.setWidth 16).toNat = x.toNat := BitVec.toNat_setWidth_of_le (by decide)
    rw [exec_value_of_unscaled hs he (unscaled_of_single id hv hx), scaleValue, hraw]
  case dual => rw [exec_value_of_unscaled hs he (unscaled_of_dual id hv hhi hlo), scaleValue, bigEndianPair_toNat]
  case bit => rw [exec_value_of_unscaled hs he (unscaled_of_bit id hv hx), scaleValue, bitOf_toNat_eq_ite]

/-- Settles O35: the raw value is the pair 0x01 0xF4, and 500 times 12.5 plus 0.0 is computed. -/
theorem engineSpeedVector : Obligations.EngineSpeedVector := by
  intro s id name unit hs he
  obtain ⟨-, hextract, -⟩ := extractAnswersRawValue s id [0x01#8, 0xF4#8] _ hs he
  obtain ⟨-, hvalue, -⟩ := valueAnswersScaledValue s id [0x01#8, 0xF4#8] _ hs he
  refine ⟨hextract _ _ _ _ rfl rfl rfl, (hvalue _ _ _ _ rfl rfl rfl).trans ?_⟩
  have hscaled : f64Add (f64Mul (f64OfNat ((0x01#8).toNat * 256 + (0xF4#8).toNat)) 0x4029000000000000#64) 0#64
      = 0x40B86A0000000000#64 := by decide
  rw [hscaled]
  rfl

/-- Settles O53: the command of one register is its pair and STREAM_START, and the registers of what follows are not read. -/
theorem codecBuildsAndParsesWireTokens : Obligations.CodecBuildsAndParsesWireTokens := by
  intro s id e after hs he
  refine ⟨exec_buildCmd_of_entries (entries := [e]) hs ?build, fun r x hmarker hstart hr => ?parse⟩
  case build => simp only [List.map_cons, List.map_nil, entryAt, he]
  case parse =>
    have hregisters : registersOf (encode (.wireMarkerPair r) ++ encode .wireStreamStart ++ after) = [r] :=
      calc registersOf (Config.marker :: r :: Config.streamStart :: after)
          = registersOf (r :: Config.streamStart :: after) := registersOf_marker_cons _
        _ = r :: registersOf (Config.streamStart :: after) := registersOf_cons _ hmarker hstart
        _ = [r] := by rw [registersOf_streamStart_cons]
    exact exec_parseCmd_of_ids (ids := [x]) hs (by rw [hregisters, List.map_singleton, hr, List.map_singleton])

/-- Settles O47: what the step leaves is no longer than the at most two held bytes and the chunk, which fit by the bounds of
R11. -/
theorem uninitializedPushNeverOverflows : Obligations.UninitializedPushNeverOverflows := by
  intro s chunk hinv hs hstate hchunk
  obtain ⟨-, -, -, ⟨hcap, -⟩, -⟩ := (configWf_iff s.config).mp hinv.config
  have hheld : s.syncBuf.length ≤ 2 := by
    have hpartial := hinv.uninitialized hstate
    simp only [List.mem_cons, List.not_mem_nil, or_false] at hpartial
    obtain hbuf | hbuf | hbuf := hpartial <;> simp [hbuf]
  have hleft : (stepU (s.syncBuf ++ chunk)).buf.length ≤ 2 + chunk.length := by
    have hle := stepU_buf_length_le (s.syncBuf ++ chunk)
    rw [List.length_append] at hle
    omega
  have hfits : (stepU (s.syncBuf ++ chunk)).buf.length ≤ s.config.syncBufCap := by omega
  exact ⟨_, _, exec_syncPush_of_le (d := (stepU (s.syncBuf ++ chunk)).dispatch) hs hstate rfl hfits, rfl, hleft⟩

/-- Settles O50, by induction on the held pairs. -/
theorem heldCommandsDrainInOrder : Obligations.HeldCommandsDrainInOrder :=
  fun _ _ => execAll_drains_pairs

/-- Settles O51, by the meaning the model gives the tokens (notes/assumptions/3.md). -/
theorem wireTokensArePushes : Obligations.WireTokensArePushes :=
  fun s r => ⟨exec_wire_eq_syncPush (i := .wireMarkerPair r) s rfl, exec_wire_eq_syncPush (i := .wireStreamStart) s rfl,
    exec_wire_eq_syncPush (i := .wireInit) s rfl, exec_wire_eq_syncPush (i := .wireInitResponse) s rfl,
    exec_wire_eq_syncPush (i := .wireStreamStop) s rfl, exec_wire_eq_syncPush (i := .wireStopAck) s rfl⟩

/-- Settles O52: a token is the push of its bytes, and the step looks for the first init marker or the first pair in the held
bytes with the token's behind them. -/
theorem wireTokensAtTheSynchronizer : Obligations.WireTokensAtTheSynchronizer := by
  intro s r i x hs hcap hi
  obtain ⟨hx, hpush⟩ : x ∈ [Config.streamStart, Config.initResponse, Config.streamStop, Config.stopAck] ∧
      exec i s = exec (.syncPush [x]) s := by
    simp only [List.mem_cons, Prod.mk.injEq, List.not_mem_nil, or_false] at hi
    obtain ⟨rfl, rfl⟩ | ⟨rfl, rfl⟩ | ⟨rfl, rfl⟩ | ⟨rfl, rfl⟩ := hi <;>
      exact ⟨by decide, exec_wire_eq_syncPush s rfl⟩
  rw [hpush]
  refine ⟨fun hstate hbuf => ?init, fun hstate hheld => ?pair, fun hstate hheld hroom => ?held,
    fun before hstate hbuf hbefore => ?dispatched, fun hstate hbuf => ?dropped⟩
  case init =>
    have hstep : stepU (s.syncBuf ++ Config.initMarker) = ⟨.initialized, s.syncBuf, none⟩ := by rw [hbuf]; rfl
    exact exec_syncPush_of_le hs hstate hstep (by rw [hbuf]; exact Nat.zero_le _)
  case pair => exact exec_syncPush_writes_syncBuf hs hstate (stepI_of_pair rfl hheld) (Nat.zero_le _)
  case held =>
    have hfits : (s.syncBuf ++ [x]).length ≤ s.config.syncBufCap := by rw [List.length_append]; exact hroom
    exact exec_syncPush_writes_syncBuf hs hstate (stepI_append_singleton x hheld) hfits
  case dispatched =>
    have hpair : s.syncBuf ++ [x] = before ++ Config.marker :: x :: [] := by rw [hbuf, List.append_assoc]; rfl
    exact exec_syncPush_writes_syncBuf hs hstate (stepI_of_pair hpair hbefore) (Nat.zero_le _)
  case dropped => exact exec_syncPush_writes_syncBuf hs hstate (stepU_append_token x hx _ hbuf) (Nat.zero_le _)

end Sys2Proof.Proofs
end

section
/-! Binary64 rounding is to the nearest finite value, a tie to the even one, with the overflow threshold (R19). -/
namespace Sys2Proof.Machine

/-! ## The magnitude fields and the numbers they stand for -/

/-- The magnitude of a finite packed pattern, in units of the quantum. -/
theorem abs_f64Value_pack {k r : Nat} (neg : Bool) (hr : r ≤ 2 ^ 53) (hk : k = 0 ∨ 2 ^ 52 ≤ r)
    (hfin : k * 2 ^ 52 + r < 2047 * 2 ^ 52) :
    |f64Value (f64Pack neg (k * 2 ^ 52 + r))| = r * 2 ^ ((k : ℤ) - 1074) := by
  have hpack : f64IsFinite (f64Pack neg (k * 2 ^ 52 + r)) = true := by rwa [f64IsFinite_pack, decide_eq_true_iff]
  have hmag := f64Mag_pack neg hfin
  have hexp : f64Exponent (f64Pack neg (k * 2 ^ 52 + r)) = (k * 2 ^ 52 + r) / 2 ^ 52 := by
    rw [f64Exponent_pack, min_eq_left hfin.le]
  rw [abs_f64Value_eq hpack]
  rw [f64Mag] at hmag
  obtain hlt | hge := Nat.lt_or_ge r (2 ^ 52)
  case inl =>
    obtain rfl : k = 0 := by omega
    rw [if_pos (by omega), show f64Fraction (f64Pack neg (0 * 2 ^ 52 + r)) = r by omega]
    rfl
  obtain hlt | heq := Nat.lt_or_eq_of_le hr
  case inl =>
    have hexp' : f64Exponent (f64Pack neg (k * 2 ^ 52 + r)) = k + 1 := by omega
    rw [if_neg (by omega), hexp', show f64Fraction (f64Pack neg (k * 2 ^ 52 + r)) + 2 ^ 52 = r by omega]
    congr 2
    push_cast
    ring
  case inr =>
    subst heq
    have hexp' : f64Exponent (f64Pack neg (k * 2 ^ 52 + 2 ^ 53)) = k + 2 := by omega
    have hfrac : f64Fraction (f64Pack neg (k * 2 ^ 52 + 2 ^ 53)) = 0 := by omega
    have hpow : (2 : ℚ) ^ (((k + 2 : ℕ) : ℤ) - 1075) = 2 ^ ((k : ℤ) - 1074) * 2 := by
      rw [show ((k + 2 : ℕ) : ℤ) - 1075 = (k : ℤ) - 1074 + 1 by push_cast; ring, zpow_add_one₀ (by norm_num)]
    rw [if_neg (by omega), hexp', hfrac, hpow]
    push_cast
    ring

/-- The magnitude of a finite pattern is at most 53 significant bits of some quantum. -/
theorem exists_significand {z : F64} (hz : f64IsFinite z = true) :
    ∃ k n : Nat, |f64Value z| = n * 2 ^ ((k : ℤ) - 1074) ∧ n < 2 ^ 53 := by
  have hfrac : f64Fraction z < 2 ^ 52 := Nat.mod_lt _ (by norm_num)
  rw [abs_f64Value_eq hz]
  by_cases h0 : f64Exponent z = 0
  · exact ⟨0, f64Fraction z, if_pos h0, by omega⟩
  · refine ⟨f64Exponent z - 1, f64Fraction z + 2 ^ 52, ?_, by omega⟩
    rw [if_neg h0, show ((f64Exponent z - 1 : ℕ) : ℤ) - 1074 = (f64Exponent z : ℤ) - 1075 by omega]

/-! ## Nearest -/

/-- `r` is nearest to `x`, and of two equally near candidates `w` and `r` is the one whose `even` holds. -/
def NearerOrEven (x r w : ℚ) (even : Prop) : Prop :=
  |r - x| ≤ |w - x| ∧ (|r - x| = |w - x| → w = r ∨ even)

/-- A natural rounded to nearest even is at least as near as any other natural. -/
theorem NearestEven.nearer {y : ℚ} {r : Nat} (h : NearestEven y r) (n : Nat) : NearerOrEven y r n (r % 2 = 0) := by
  have hu := h.upper
  have hl := h.lower
  have hdist : |(r : ℚ) - y| ≤ 1 / 2 := abs_le.mpr ⟨by linarith, by linarith⟩
  obtain hlt | rfl | hgt := lt_trichotomy n r
  · have hcast : (n : ℚ) + 1 ≤ r := by exact_mod_cast hlt
    have hn : |(n : ℚ) - y| = y - n := by rw [abs_sub_comm]; exact abs_of_nonneg (by linarith)
    rw [NearerOrEven, hn]
    refine ⟨by linarith, fun htie => .inr (h.even (.inl ?_))⟩
    linarith
  · exact ⟨le_rfl, fun _ => .inl rfl⟩
  · have hcast : (r : ℚ) + 1 ≤ n := by exact_mod_cast hgt
    have hn : |(n : ℚ) - y| = n - y := abs_of_nonneg (by linarith)
    rw [NearerOrEven, hn]
    refine ⟨by linarith, fun htie => .inr (h.even (.inr ?_))⟩
    linarith

/-- Nearness does not depend on the unit. -/
theorem NearerOrEven.scale {x r w : ℚ} {even : Prop} (h : NearerOrEven x r w even) {q : ℚ} (hq : 0 < q) :
    NearerOrEven (x * q) (r * q) (w * q) even := by
  obtain ⟨hle, htie⟩ := h
  have hdist (v : ℚ) : |v * q - x * q| = |v - x| * q := by rw [← sub_mul, abs_mul, abs_of_pos hq]
  rw [NearerOrEven, hdist, hdist]
  refine ⟨by gcongr, fun heq => (htie (mul_right_cancel₀ hq.ne' heq)).imp_left ?_⟩
  rintro rfl
  rfl

/-- What is nearest to a magnitude among magnitudes is, with the sign put back, nearest among all. -/
theorem NearerOrEven.of_abs {x r w : ℚ} {even : Prop} (h : NearerOrEven |x| |r| |w| even)
    (hsame : |r - x| = |(|r| - |x|)|) (hzero : x = 0 → r = 0) : NearerOrEven x r w even := by
  obtain ⟨hle, htie⟩ := h
  have hw : |(|w| - |x|)| ≤ |w - x| := abs_abs_sub_abs_le w x
  rw [NearerOrEven, hsame]
  refine ⟨hle.trans hw, fun heq => (htie (le_antisymm hle (heq ▸ hw))).imp_left fun habs => ?_⟩
  obtain heqw | hneg := abs_eq_abs.mp habs
  · exact heqw
  · suffices hr : r = 0 by rw [hneg, hr, neg_zero]
    rw [← hsame, hneg] at heq
    obtain hr | hx := abs_eq_abs.mp heq
    · linarith
    · exact hzero (by linarith)

/-- The magnitude field rounded to is that of a nearest finite value, a tie going to the even field (R19). -/
theorem RoundsToMag.nearer {x : ℚ} {mag : Nat} (h : RoundsToMag x mag) (hfin : mag < 2047 * 2 ^ 52) (neg : Bool) {z : F64}
    (hz : f64IsFinite z = true) : NearerOrEven x |f64Value (f64Pack neg mag)| |f64Value z| (mag % 2 = 0) := by
  obtain ⟨k, r, y, rfl, rfl, hr, hy, hk⟩ := h
  have hr53 : r ≤ 2 ^ 53 := hr.mono (NearestEven.self (2 ^ 53)) (by exact_mod_cast hy.le)
  have hr52 : k = 0 ∨ 2 ^ 52 ≤ r := hk.imp_right fun hlow => (NearestEven.self (2 ^ 52)).mono hr (by exact_mod_cast hlow)
  have hq : (0 : ℚ) < 2 ^ ((k : ℤ) - 1074) := by positivity
  obtain ⟨k', n, hzval, hn⟩ := exists_significand hz
  rw [abs_f64Value_pack neg hr53 hr52 hfin, hzval, show (k * 2 ^ 52 + r) % 2 = r % 2 by omega]
  obtain hlt | hle := Nat.lt_or_ge k' k
  case inr =>
    -- `z` is a whole number of quanta.
    have hunits : (n : ℚ) * 2 ^ ((k' : ℤ) - 1074) = ((n * 2 ^ (k' - k) : ℕ) : ℚ) * 2 ^ ((k : ℤ) - 1074) := by
      rw [show (k' : ℤ) - 1074 = ((k' - k : ℕ) : ℤ) + ((k : ℤ) - 1074) by omega, zpow_add₀ (by norm_num), zpow_natCast]
      push_cast
      ring
    rw [hunits]
    exact (hr.nearer _).scale hq
  case inl =>
    -- `z` lies below `2^52` quanta, a natural that `x` does not lie below.
    have hy52 : (2 : ℚ) ^ 52 ≤ y := hk.resolve_left (by omega)
    have hbelow : (n : ℚ) * 2 ^ ((k' : ℤ) - 1074) < 2 ^ 52 * 2 ^ ((k : ℤ) - 1074) :=
      lt_of_quantum_lt hlt (by exact_mod_cast hn) le_rfl
    have hx52 : 2 ^ 52 * 2 ^ ((k : ℤ) - 1074) ≤ y * 2 ^ ((k : ℤ) - 1074) := by gcongr
    have hnear := ((hr.nearer (2 ^ 52)).scale hq).1
    rw [Nat.cast_pow, Nat.cast_ofNat] at hnear
    rw [abs_of_nonpos (a := _ - _ * _) (sub_nonpos.mpr hx52)] at hnear
    have hfar : |(n : ℚ) * 2 ^ ((k' : ℤ) - 1074) - y * 2 ^ ((k : ℤ) - 1074)|
        = y * 2 ^ ((k : ℤ) - 1074) - n * 2 ^ ((k' : ℤ) - 1074) := by
      rw [abs_of_nonpos (by linarith), neg_sub]
    rw [NearerOrEven, hfar]
    exact ⟨by linarith, fun htie => by linarith⟩

/-! ## The overflow threshold -/

/-- The threshold is half a unit below the first power of two that binary64 cannot hold. -/
theorem overflowThreshold_eq : (2 : ℚ) ^ 1024 - 2 ^ 970 = (2 ^ 53 - 1 / 2) * 2 ^ (((2045 : ℕ) : ℤ) - 1074) := by
  have hunit (p : ℚ) : 2 ^ 54 * p - p = (2 ^ 53 - 1 / 2) * (2 * p) := by ring
  calc (2 : ℚ) ^ 1024 - 2 ^ 970 = 2 ^ 54 * 2 ^ 970 - 2 ^ 970 := by rw [← pow_add]
    _ = (2 ^ 53 - 1 / 2) * (2 * 2 ^ 970) := hunit _
    _ = (2 ^ 53 - 1 / 2) * 2 ^ (971 : ℕ) := by rw [← pow_succ']
    _ = (2 ^ 53 - 1 / 2) * 2 ^ (((2045 : ℕ) : ℤ) - 1074) := by rw [← zpow_natCast]; norm_num

/-- At the threshold the tie goes to the infinity, whose significand is even. -/
theorem roundsToMag_overflowThreshold : RoundsToMag (2 ^ 1024 - 2 ^ 970) (2047 * 2 ^ 52) :=
  ⟨2045, 2 ^ 53, 2 ^ 53 - 1 / 2, overflowThreshold_eq, by norm_num, ⟨by norm_num, by norm_num, fun _ => by norm_num⟩,
    by norm_num, .inr (by norm_num)⟩

/-- Below the threshold nothing rounds to the infinity. -/
theorem RoundsToMag.lt_infinity {x : ℚ} {mag : Nat} (h : RoundsToMag x mag) (hx : x < 2 ^ 1024 - 2 ^ 970) :
    mag < 2047 * 2 ^ 52 := by
  obtain ⟨k, r, y, rfl, rfl, hr, hy, hk⟩ := h
  have hr53 : r ≤ 2 ^ 53 := hr.mono (NearestEven.self (2 ^ 53)) (by exact_mod_cast hy.le)
  rw [overflowThreshold_eq] at hx
  by_contra! hmag
  obtain hlt | rfl | hgt := lt_trichotomy k 2045
  · omega
  · have hrge : (2 : ℚ) ^ 53 ≤ r := by exact_mod_cast (by omega : 2 ^ 53 ≤ r)
    have hlow : (2 : ℚ) ^ 53 - 1 / 2 ≤ y := by linarith only [hr.upper, hrge]
    have hq : (0 : ℚ) < 2 ^ (((2045 : ℕ) : ℤ) - 1074) := by positivity
    exact absurd (lt_of_mul_lt_mul_right hx hq.le) (not_lt.mpr hlow)
  · exact absurd hx (not_lt.mpr (lt_of_quantum_lt hgt (by norm_num) (hk.resolve_left (by omega))).le)

/-! ## One rounding is `RoundsTo` -/

theorem f64Value_zero : f64Value 0#64 = 0 := by
  norm_num [f64Value, f64Class, f64Exponent, f64Fraction]

/-- The last bit of a finite packed pattern is that of its magnitude. -/
theorem f64Pack_toNat_mod_two {mag : Nat} (neg : Bool) (h : mag < 2047 * 2 ^ 52) :
    (f64Pack neg mag).toNat % 2 = mag % 2 := by
  rw [f64Pack_toNat, min_eq_left h.le]
  cases neg <;> simp only [Bool.false_eq_true, if_true, if_false] <;> omega

/-- Two numbers of one sign differ as their magnitudes do. -/
theorem abs_sub_of_same_sign {neg : Bool} {r x : ℚ} (hr : r = (if neg then -1 else 1) * |r|)
    (hx : x = (if neg then -1 else 1) * |x|) : |r - x| = |(|r| - |x|)| := by
  rw [hr, hx, ← mul_sub, abs_mul]
  cases neg <;> simp

/-- `f64Round` rounds the number it is given as sign and magnitude (R19). -/
theorem roundsTo_f64Round {x : ℚ} {neg : Bool} {m : Nat} {e : ℤ} (habs : (m : ℚ) * 2 ^ e = |x|)
    (hsign : x = (if neg then -1 else 1) * |x|) : RoundsTo x (f64Round neg m e) := by
  obtain ⟨mag, hmag, heq⟩ := f64Round_eq_pack neg m e
  rw [habs] at hmag
  rw [heq]
  constructor
  · intro hlt
    have hfin : mag < 2047 * 2 ^ 52 := hmag.lt_infinity hlt
    have hpack : f64IsFinite (f64Pack neg mag) = true := by rwa [f64IsFinite_pack, decide_eq_true_iff]
    have hvalue := f64Value_eq_sign_mul_abs hpack
    rw [f64Neg_pack] at hvalue
    have hzero (hx : x = 0) : f64Value (f64Pack neg mag) = 0 := by
      have hnear := (hmag.nearer hfin neg (z := 0#64) (by decide)).1
      simpa [hx, f64Value_zero] using hnear
    refine ⟨hpack, fun z hz => ?_⟩
    rw [f64Pack_toNat_mod_two neg hfin]
    exact (hmag.nearer hfin neg hz).of_abs (abs_sub_of_same_sign hvalue hsign) hzero
  · intro hge
    rw [f64IsFinite_pack, decide_eq_false_iff_not, not_lt]
    exact roundsToMag_overflowThreshold.mono hmag hge

end Sys2Proof.Machine
end

section
/-! The product, the sum and the conversion of a natural as roundings of the exact result, with their signs (R19, R126). -/
namespace Sys2Proof.Machine

/-- `r` is the exact result `x`, given as sign and magnitude, rounded once. -/
def IsRoundingOf (x : ℚ) (r : F64) : Prop :=
  ∃ (neg : Bool) (m : Nat) (e : ℤ), r = f64Round neg m e ∧ (m : ℚ) * 2 ^ e = |x| ∧ x = (if neg then -1 else 1) * |x|

theorem IsRoundingOf.roundsTo {x : ℚ} {r : F64} (h : IsRoundingOf x r) : RoundsTo x r := by
  obtain ⟨neg, m, e, rfl, habs, hsign⟩ := h
  exact roundsTo_f64Round habs hsign

/-- An exact result that is a finite value is not changed (R126). -/
theorem IsRoundingOf.unchanged {x : ℚ} {r z : F64} (h : IsRoundingOf x r) (hz : f64IsFinite z = true) (hx : f64Value z = x) :
    f64IsFinite r = true ∧ f64Value r = x := by
  obtain ⟨hbelow, habove⟩ := h.roundsTo
  have hfin : f64IsFinite r = true := by
    obtain ⟨neg, m, e, rfl, habs, -⟩ := h
    exact f64IsFinite_round_of_le_value hz (by rw [habs, hx])
  have hlt : |x| < 2 ^ 1024 - 2 ^ 970 := by
    by_contra! hge
    exact Bool.false_ne_true ((habove hge).symm.trans hfin)
  obtain ⟨-, hnear⟩ := hbelow hlt
  obtain ⟨hle, -⟩ := hnear z hz
  rw [hx, sub_self, abs_zero] at hle
  exact ⟨hfin, sub_eq_zero.mp (abs_nonpos_iff.mp hle)⟩

/-! ## The product -/

theorem isRoundingOf_f64Mul {a b : F64} (ha : f64IsFinite a = true) (hb : f64IsFinite b = true) :
    IsRoundingOf (f64Value a * f64Value b) (f64Mul a b) := by
  obtain ⟨m, e, hround, hval⟩ := f64Mul_of_finite ha hb
  refine ⟨_, m, e, hround, hval.trans (abs_mul _ _).symm, ?_⟩
  have hsa := f64Value_eq_sign_mul_abs ha
  have hsb := f64Value_eq_sign_mul_abs hb
  calc f64Value a * f64Value b
      = (if f64Neg a then -1 else 1) * |f64Value a| * ((if f64Neg b then -1 else 1) * |f64Value b|) := by rw [← hsa, ← hsb]
    _ = (if f64Neg a != f64Neg b then -1 else 1) * |f64Value a * f64Value b| := by
      rw [abs_mul]
      cases f64Neg a <;> cases f64Neg b <;> simp

theorem f64Neg_mul {a b : F64} (ha : f64IsFinite a = true) (hb : f64IsFinite b = true) :
    f64Neg (f64Mul a b) = (f64Neg a != f64Neg b) := by
  obtain ⟨m, e, hround, -⟩ := f64Mul_of_finite ha hb
  rw [hround, f64Neg_round]

/-! ## The sum -/

/-- The sign of an exact sum as `f64_add` gives it: of a zero, minus only when both operands are negative (R126 (f)). -/
def sumNeg (x : ℚ) (s t : Bool) : Bool := if x = 0 then s && t else decide (x < 0)

/-- A number that is not zero has the sign it is written with. -/
theorem sumNeg_signed {m : Nat} (hm : m ≠ 0) (neg s t : Bool) (e : ℤ) :
    sumNeg ((if neg then -1 else 1) * (m * 2 ^ e)) s t = neg := by
  have hpos : (0 : ℚ) < m * 2 ^ e := by positivity
  cases neg with
  | false => simp [sumNeg, hpos.ne', hpos.le]
  | true => simp [sumNeg, hpos.ne', hpos]

/-- Two negative terms have a negative sum. -/
theorem signedShift_true_add_lt_zero {m n : Nat} (hm : m ≠ 0) (k l : Nat) :
    signedShift true m k + signedShift true n l < 0 := by
  have hpos : 0 < m * 2 ^ k := by positivity
  simp only [signedShift, if_true]
  omega

theorem f64Neg_addFinite (s : Bool) (m : Nat) (e : ℤ) (t : Bool) (n : Nat) (f : ℤ) :
    f64Neg (f64AddFinite s m e t n f) =
      sumNeg ((if s then (-1 : ℚ) else 1) * (m * 2 ^ e) + (if t then -1 else 1) * (n * 2 ^ f)) s t := by
  by_cases hm : m = 0
  · by_cases hn : n = 0
    · simp [f64AddFinite, hm, hn, f64Neg_pack, sumNeg]
    · rw [hm, Nat.cast_zero, zero_mul, mul_zero, zero_add, sumNeg_signed hn]
      simp only [f64AddFinite, hn, and_false, if_false, if_true, f64Neg_round]
  by_cases hn : n = 0
  · rw [hn, Nat.cast_zero, zero_mul, mul_zero, add_zero, sumNeg_signed hm]
    simp only [f64AddFinite, hm, and_true, if_false, if_true, f64Neg_round]
  rw [← signedShift_mul_zpow s m (min_le_left e f), ← signedShift_mul_zpow t n (min_le_right e f), ← add_mul, ← Int.cast_add]
  simp only [f64AddFinite, hm, hn, and_self, if_false]
  have hpow : (0 : ℚ) < 2 ^ min e f := by positivity
  split
  case isTrue hzero =>
    have hsigns : (s && t) = false := Bool.eq_false_iff.mpr fun hboth => by
      obtain ⟨rfl, rfl⟩ := Bool.and_eq_true_iff.mp hboth
      exact absurd hzero (signedShift_true_add_lt_zero hm _ _).ne
    rw [f64Neg_pack, hzero, Int.cast_zero, zero_mul, sumNeg, if_pos rfl, hsigns]
  case isFalse hne =>
    rw [f64Neg_round, sumNeg, if_neg (mul_ne_zero (Int.cast_ne_zero.mpr hne) hpow.ne'), decide_eq_decide,
      ← Int.cast_lt_zero (R := ℚ)]
    exact ⟨fun h => mul_neg_of_neg_of_pos h hpow, fun h => neg_of_mul_neg_left h hpow.le⟩

theorem f64Neg_add {a b : F64} (ha : f64IsFinite a = true) (hb : f64IsFinite b = true) :
    f64Neg (f64Add a b) = sumNeg (f64Value a + f64Value b) (f64Neg a) (f64Neg b) := by
  obtain ⟨m, e, hca⟩ := f64Class_of_finite ha
  obtain ⟨n, f, hcb⟩ := f64Class_of_finite hb
  rw [f64Value_of_class hca, f64Value_of_class hcb, ← f64Neg_addFinite]
  simp only [f64Add, hca, hcb]

theorem isRoundingOf_f64Add {a b : F64} (ha : f64IsFinite a = true) (hb : f64IsFinite b = true) :
    IsRoundingOf (f64Value a + f64Value b) (f64Add a b) := by
  obtain ⟨neg, m, e, hround, hval⟩ := f64Add_of_finite ha hb
  refine ⟨neg, m, e, hround, hval, ?_⟩
  have hneg := f64Neg_add ha hb
  rw [hround, f64Neg_round, sumNeg] at hneg
  split at hneg
  case isTrue hzero => rw [hzero, abs_zero, mul_zero]
  case isFalse =>
    obtain hlt | hge := lt_or_ge (f64Value a + f64Value b) 0
    · rw [hneg, decide_eq_true hlt, if_pos rfl, abs_of_neg hlt, neg_mul, one_mul, neg_neg]
    · rw [hneg, decide_eq_false (not_lt.mpr hge), if_neg Bool.false_ne_true, abs_of_nonneg hge, one_mul]

/-! ## The conversion of a natural -/

theorem f64Neg_ofNat (n : Nat) : f64Neg (f64OfNat n) = false := f64Neg_round false n 0

/-- A natural below 2^53 is a whole number of quanta, so none of it is rounded away. -/
theorem RoundsToMag.exists_quanta {n mag : Nat} (h : RoundsToMag n mag) (hn : n < 2 ^ 53) :
    ∃ k r : Nat, mag = k * 2 ^ 52 + r ∧ k ≤ 1074 ∧ r < 2 ^ 53 ∧ (k = 0 ∨ 2 ^ 52 ≤ r) ∧
      (n : ℚ) = r * 2 ^ ((k : ℤ) - 1074) := by
  obtain ⟨k, r, y, hx, rfl, hr, hy, hk⟩ := h
  have hk1074 : k ≤ 1074 := by
    by_contra! hlarge
    have hlt : (n : ℚ) * 2 ^ (((1074 : ℕ) : ℤ) - 1074) < y * 2 ^ ((k : ℤ) - 1074) :=
      lt_of_quantum_lt hlarge (by exact_mod_cast hn) (hk.resolve_left (by omega))
    rw [← hx, show ((1074 : ℕ) : ℤ) - 1074 = 0 by norm_num, zpow_zero, mul_one] at hlt
    exact lt_irrefl _ hlt
  have hquanta : y = ((n * 2 ^ (1074 - k) : ℕ) : ℚ) := by
    have hinverse : (2 : ℚ) ^ ((k : ℤ) - 1074) * 2 ^ (1074 - k) = 1 := by
      rw [← zpow_natCast, ← zpow_add₀ (by norm_num), show (k : ℤ) - 1074 + ((1074 - k : ℕ) : ℤ) = 0 by omega, zpow_zero]
    rw [Nat.cast_mul, Nat.cast_pow, Nat.cast_ofNat, hx, mul_assoc, hinverse, mul_one]
  obtain rfl : y = r := by
    rw [hquanta] at hr ⊢
    exact_mod_cast le_antisymm ((NearestEven.self _).mono hr le_rfl) (hr.mono (NearestEven.self _) le_rfl)
  exact ⟨k, r, rfl, hk1074, by exact_mod_cast hy, hk.imp_right fun hlow => by exact_mod_cast hlow, hx⟩

/-- The conversion of a natural below 2^53 is exact (R126 (a)). -/
theorem f64OfNat_exact {n : Nat} (hn : n < 2 ^ 53) : f64IsFinite (f64OfNat n) = true ∧ f64Value (f64OfNat n) = n := by
  obtain ⟨mag, hmag, heq⟩ := f64Round_eq_pack false n 0
  rw [zpow_zero, mul_one] at hmag
  obtain ⟨k, r, rfl, hk, hr, hr52, hvalue⟩ := hmag.exists_quanta hn
  have hlt : k * 2 ^ 52 + r < 2047 * 2 ^ 52 := by omega
  have hfin : f64IsFinite (f64OfNat n) = true := by rw [f64OfNat, heq, f64IsFinite_pack, decide_eq_true hlt]
  refine ⟨hfin, ?_⟩
  rw [f64Value_eq_sign_mul_abs hfin, f64Neg_ofNat, if_neg Bool.false_ne_true, one_mul, f64OfNat, heq,
    abs_f64Value_pack false hr.le hr52 hlt, hvalue]

/-! ## Patterns from values -/

/-- A pattern is its sign and its magnitude field. -/
theorem f64_toNat_eq (x : F64) : x.toNat = (if f64Neg x then 2 ^ 63 else 0) + f64Mag x := by
  have hx := x.isLt
  have hbit : f64Neg x = decide (x.toNat / 2 ^ 63 % 2 = 1) := Nat.testBit_eq_decide_div_mod_eq
  simp only [hbit, decide_eq_true_eq, f64Mag, f64Exponent, f64Fraction]
  split
  · omega
  · omega

/-- A finite value has one pattern of each sign. -/
theorem f64_eq_of_value_eq {x y : F64} (hx : f64IsFinite x = true) (hy : f64IsFinite y = true) (hneg : f64Neg x = f64Neg y)
    (hvalue : f64Value x = f64Value y) : x = y := by
  have habs : |f64Value x| = |f64Value y| := by rw [hvalue]
  have hmag : f64Mag x = f64Mag y := le_antisymm
    ((roundsToMag_self hx).mono (roundsToMag_self hy) habs.le) ((roundsToMag_self hy).mono (roundsToMag_self hx) habs.ge)
  rw [← BitVec.toNat_inj, f64_toNat_eq, f64_toNat_eq, hneg, hmag]

theorem f64Value_one : f64Value 0x3FF0000000000000#64 = 1 := by
  have hclass : f64Class 0x3FF0000000000000#64 = .finite false (2 ^ 52) (-52) := by decide
  rw [f64Value_of_class hclass]
  norm_num

/-- A product by 1.0 is the other factor. -/
theorem f64Mul_one {x : F64} (hx : f64IsFinite x = true) : f64Mul x 0x3FF0000000000000#64 = x := by
  have hone : f64IsFinite 0x3FF0000000000000#64 = true := by decide
  have hproduct : f64Value x * f64Value 0x3FF0000000000000#64 = f64Value x := by rw [f64Value_one, mul_one]
  have hneg : f64Neg (f64Mul x 0x3FF0000000000000#64) = f64Neg x := by
    rw [f64Neg_mul hx hone, show f64Neg 0x3FF0000000000000#64 = false by decide, Bool.bne_false]
  obtain ⟨hfin, hvalue⟩ := (isRoundingOf_f64Mul hx hone).unchanged hx hproduct.symm
  exact f64_eq_of_value_eq hfin hx hneg (hvalue.trans hproduct)

/-- A sum with 0.0 is the other term, unless that is -0.0. -/
theorem f64Add_zero {x : F64} (hx : f64IsFinite x = true) (hpos : f64Neg x = false) : f64Add x 0#64 = x := by
  have hzero : f64IsFinite 0#64 = true := by decide
  have hsum : f64Value x + f64Value 0#64 = f64Value x := by rw [f64Value_zero, add_zero]
  have hnonneg : 0 ≤ f64Value x := by
    rw [f64Value_eq_sign_mul_abs hx, hpos, if_neg Bool.false_ne_true, one_mul]
    exact abs_nonneg _
  have hneg : f64Neg (f64Add x 0#64) = f64Neg x := by
    rw [f64Neg_add hx hzero, hsum, hpos, sumNeg, Bool.false_and, decide_eq_false (not_lt.mpr hnonneg), ite_self]
  obtain ⟨hfin, hvalue⟩ := (isRoundingOf_f64Add hx hzero).unchanged hx hsum.symm
  exact f64_eq_of_value_eq hfin hx hneg (hvalue.trans hsum)

/-! ## The scaler -/

/-- Where product and sum are finite values the scaler changes neither (R126 (d)). -/
theorem scaleValue_exact {e : Entry} {raw : Nat} {p z : F64} (hraw : raw < 65536) (hscale : f64IsFinite e.scale = true)
    (hoffset : f64IsFinite e.offset = true) (hp : f64IsFinite p = true) (hz : f64IsFinite z = true)
    (hproduct : f64Value p = raw * f64Value e.scale) (hsum : f64Value z = raw * f64Value e.scale + f64Value e.offset) :
    f64IsFinite (scaleValue e raw) = true ∧ f64Value (scaleValue e raw) = raw * f64Value e.scale + f64Value e.offset := by
  obtain ⟨hrawFin, hrawValue⟩ := f64OfNat_exact (n := raw) (by omega)
  obtain ⟨hmulFin, hmulValue⟩ := (isRoundingOf_f64Mul hrawFin hscale).unchanged hp (by rw [hproduct, hrawValue])
  rw [hrawValue] at hmulValue
  rw [← hmulValue] at hsum ⊢
  exact (isRoundingOf_f64Add hmulFin hoffset).unchanged hz hsum

/-- Scale 1.0 and offset 0.0 keep the pattern of the raw value (R126 (c)). -/
theorem scaleValue_identity {e : Entry} {raw : Nat} (hscale : e.scale = 0x3FF0000000000000#64) (hoffset : e.offset = 0#64)
    (hraw : raw < 65536) : scaleValue e raw = f64OfNat raw := by
  obtain ⟨hfin, -⟩ := f64OfNat_exact (n := raw) (by omega)
  rw [scaleValue, hscale, hoffset, f64Mul_one hfin, f64Add_zero hfin (f64Neg_ofNat raw)]

end Sys2Proof.Machine
end

section
/-! The statements about binary64 numbers (00_scope.md section 6, 42_parameter_model.md section 2). -/
namespace Sys2Proof.Proofs

open Sys2Proof.Machine

/-- Settles O30: the product of finite operands is one rounding of the exact product, with the product's sign. -/
theorem multiplicationRoundsToNearestEven : Obligations.MultiplicationRoundsToNearestEven :=
  fun _ _ ha hb => ⟨(isRoundingOf_f64Mul ha hb).roundsTo, f64Neg_mul ha hb⟩

/-- Settles O31: the sum of finite operands is one rounding of the exact sum, with the sign of `sumNeg`. -/
theorem additionRoundsToNearestEven : Obligations.AdditionRoundsToNearestEven :=
  fun _ _ ha hb => ⟨(isRoundingOf_f64Add ha hb).roundsTo, fun hzero => (f64Neg_add ha hb).trans (if_pos hzero),
    fun hne => (f64Neg_add ha hb).trans (if_neg hne)⟩

/-- Settles O32: below 2^53 a natural is a whole number of quanta. -/
theorem naturalConversionIsExact : Obligations.NaturalConversionIsExact := by
  intro n hn
  obtain ⟨hfin, hvalue⟩ := f64OfNat_exact hn
  exact ⟨hfin, hvalue, f64Neg_ofNat n⟩

/-- Settles O33: product and sum are exact and keep the sign, and a finite value has one pattern of each sign. -/
theorem identityScalingIsExact : Obligations.IdentityScalingIsExact :=
  fun _ _ hscale hoffset hraw => scaleValue_identity hscale hoffset hraw

/-- Settles O34: a rounding does not change an exact result that is a finite value. -/
theorem representableScalingIsExact : Obligations.RepresentableScalingIsExact :=
  fun _ _ _ _ hraw hscale hoffset hp hz hproduct hsum =>
    scaleValue_exact hraw hscale hoffset hp hz hproduct (hproduct ▸ hsum)

end Sys2Proof.Proofs
end
